-- ==== Sys2Proof/Word.lean ====
section
/-!
DEFINITION. The word types of the machine (spec/00_scope.md R9, R14; spec/10_state.md R25, R30, R35, R37).
Bit 0 is the least significant bit of every value. A register number is the concatenation of encoding bits (R106),
so it is a bit vector; a count, a length or a lane index is a natural number.
-/
namespace Sys2Proof

/-- One byte of memory or of an instruction (R14, R60). -/
abbrev Byte := BitVec 8

/-- A single precision element, 32 bits (R170). -/
abbrev Single := BitVec 32

/-- A double precision element, 64 bits (R171). -/
abbrev Double := BitVec 64

/-- A 64-bit value: a general register, RIP, a segment base, a linear address (R35, R37, R38, R60). -/
abbrev Quad := BitVec 64

/-- A full vector register, `MAXVL = 512` bits (R7, R25). -/
abbrev ZmmValue := BitVec 512

/-- The source value `SRC` of a form, at most 256 bits; a narrower one is zero-extended (R147). -/
abbrev SrcValue := BitVec 256

/-- A vector register number, 0..31 (R25, R106). -/
abbrev VReg := BitVec 5

/-- A general register number, 0..15 (R37). -/
abbrev Gpr := BitVec 4

/-- An opmask register number, 0..7: the field `EVEX.aaa` (R30, R118). -/
abbrev KReg := BitVec 3

end Sys2Proof
end

