-- ==== Sys2Proof/Config.lean ====
section
/-!
DEFINITION. What an implementation fixes (spec/00_scope.md R7) and the values the spec leaves free.
Parameters that a machine may have either way stand in `Processor`, a plain record that the state carries and no step
writes, so that a statement about every state is a statement about every processor. The free values are constants
without a body: no proof can see what they are.
-/
namespace Sys2Proof

/-- The vector-length-independent width of a vector register in bits (R7, decision D2). -/
abbrev Config.maxVL : Nat := 512

/-- The number of vector registers in 64-bit mode (R7, R25, decision D3). -/
abbrev Config.numVRegs : Nat := 32

/-- The number of opmask registers (R7, R30). -/
abbrev Config.numKRegs : Nat := 8

/-- The width of an opmask register. DESIGN CHOICE: R30 allows 16 or 64; only bits 7:0 are ever read (R31). Safe: log 5. -/
abbrev Config.kWidth : Nat := 64

/-- The number of general registers in 64-bit mode (R37). -/
abbrev Config.numGprs : Nat := 16

/-- The longest instruction the architecture allows, in bytes (R115). -/
abbrev Config.maxInstrBytes : Nat := 15

/-- The CPUID feature flags that gate the forms (R2, R44). -/
inductive Feature where
  /-- CPUID.01H:EDX bit 26. -/
  | sse2
  /-- CPUID.01H:ECX bit 28. -/
  | avx
  /-- CPUID.(EAX=07H, ECX=0):EBX bit 16. -/
  | avx512f
  /-- CPUID.(EAX=07H, ECX=0):EBX bit 31. -/
  | avx512vl
  deriving DecidableEq, Repr

/-- The set `Features` of R7: which CPUID flags are 1. Any subset is allowed. -/
structure Features where
  sse2 : Bool
  avx : Bool
  avx512f : Bool
  avx512vl : Bool
  deriving DecidableEq, Repr

/-- What an EVEX encoding with `b = 1`, a register source and `L'L` other than 10b means (R7, R125, decision D17). -/
inductive SaeLLPolicy where
  /-- It is refused: the default of R7. -/
  | refuse
  /-- It is the EVEX.512 `{sae}` form whatever `L'L` holds. -/
  | vl512
  deriving DecidableEq, Repr

/-- How many bits of a linear address are significant (R74). -/
inductive LinearWidth where
  | la48
  | la57
  deriving DecidableEq, Repr

/-- The parameters of one processor. No step writes them. -/
structure Processor where
  /-- `Features` (R7). -/
  features : Features
  /-- `SaeLLPolicy` (R7, R125). -/
  saeLL : SaeLLPolicy
  /-- The canonical-address width (R74). -/
  linear : LinearWidth
  /-- Whether the processor has the DAZ bit; where it does not, the bit reads 0 (R33). -/
  dazSupported : Bool
  deriving DecidableEq, Repr

/-- FREE VALUE (log 8). Which of several unreadable bytes of an operand a #PF reports (R208, U10): an index into the
unreadable bytes, taken modulo their number, for the access of `n` bytes at `ea` made by the instruction at `rip`. -/
opaque Config.pageFaultPick (rip ea : BitVec 64) (n : Nat) : Nat

/-- FREE VALUE (log 10). Whether #AC is reported before #PF when both hold (R212: 'as MemRead orders them'). -/
opaque Config.alignBeforePage (rip ea : BitVec 64) (n : Nat) : Bool

/-- FREE VALUE (log 10). Whether #AC is raised for a misaligned operand of more than 8 bytes when alignment checking is
on: R206 and R207 name only accesses of 8 bytes or fewer, and R65 with decision D6 leaves the rest to the memory
system. -/
opaque Config.wideAlignCheck (rip ea : BitVec 64) (n : Nat) : Bool

end Sys2Proof
end

