-- ==== Sys2Proof/Syntax.lean ====
section
/-!
DEFINITION. The instructions: one constructor for each of the eight rows of spec/opcode_table.json (spec/30_encoding.md
R90, R119), and their operands. An instruction keeps every bit of its encoding that can change an operand, the result,
an exception or the length of the instruction. It drops the bits the spec calls ignored (REX.W, VEX.W, an extension bit
the operand does not use, the order of the prefixes): log 20.
-/
namespace Sys2Proof

/-- The segments a prefix can name (R74, R94). -/
inductive Segment where
  /-- `26` -/
  | es
  /-- `2E` -/
  | cs
  /-- `36` -/
  | ss
  /-- `3E` -/
  | ds
  /-- `64` -/
  | fs
  /-- `65` -/
  | gs
  deriving DecidableEq, Repr

/-- The admitted legacy prefixes: at most one segment override and at most one address-size prefix `67` (R94). -/
structure Prefixes where
  seg : Option Segment
  addr32 : Bool
  deriving DecidableEq, Repr

/-- No legacy prefix. -/
abbrev Prefixes.empty : Prefixes := ⟨none, false⟩

/-- The displacement selected by `mod` (R109). -/
inductive Disp where
  /-- `mod = 00b` -/
  | none
  /-- `mod = 01b`: one byte, scaled by `N` in the EVEX forms (R72) -/
  | disp8 (d : BitVec 8)
  /-- `mod = 10b`: four bytes, never scaled -/
  | disp32 (d : BitVec 32)
  deriving DecidableEq, Repr

/-- A memory operand as ModRM, SIB and displacement spell it (R69, R70, R71). Register numbers carry their extension
bit. An `index` of 0100b means no index (R70). -/
inductive MemForm where
  /-- `mod = 00b, rm = 101b`: RIP-relative (R71) -/
  | ripRel (d : BitVec 32)
  /-- no SIB byte: `base + disp` -/
  | base (b : Gpr) (d : Disp)
  /-- SIB byte with a base: `base + index * 2^scale + disp` -/
  | sib (scale : BitVec 2) (index : Gpr) (b : Gpr) (d : Disp)
  /-- SIB byte with `mod = 00b` and base field 101b: `index * 2^scale + disp32` -/
  | sibNoBase (scale : BitVec 2) (index : Gpr) (d : BitVec 32)
  deriving DecidableEq, Repr

/-- Operand 2, ModRM:r/m (R104, R105): a vector register (`mod = 11b`) or memory. -/
inductive Rm where
  | reg (n : VReg)
  | mem (m : MemForm)
  deriving DecidableEq, Repr

/-- The instructions, one constructor per row of the opcode table, in the table's order. `vvvv` is the field as stored
in the prefix (R120); `aaa`, `z`, `b` are the EVEX operand fields (R107, R118). -/
inductive Instr where
  /-- LEGACY, `NP 0F 5A /r`; `rex` says whether a REX byte is present (R93, R95, R141). -/
  | cvtps2pd (p : Prefixes) (rex : Bool) (dst : VReg) (src : Rm)
  /-- VEX.128 with the two-byte prefix (R96, R142). -/
  | vcvtps2pd128Vex2 (p : Prefixes) (vvvv : BitVec 4) (dst : VReg) (src : Rm)
  /-- VEX.256 with the two-byte prefix (R96, R143). -/
  | vcvtps2pd256Vex2 (p : Prefixes) (vvvv : BitVec 4) (dst : VReg) (src : Rm)
  /-- VEX.128 with the three-byte prefix (R97, R142). -/
  | vcvtps2pd128Vex3 (p : Prefixes) (vvvv : BitVec 4) (dst : VReg) (src : Rm)
  /-- VEX.256 with the three-byte prefix (R97, R143). -/
  | vcvtps2pd256Vex3 (p : Prefixes) (vvvv : BitVec 4) (dst : VReg) (src : Rm)
  /-- EVEX.128 (R100, R144). -/
  | vcvtps2pd128Evex (p : Prefixes) (vvvv : BitVec 4) (aaa : KReg) (z b : Bool) (dst : VReg) (src : Rm)
  /-- EVEX.256 (R100, R145). -/
  | vcvtps2pd256Evex (p : Prefixes) (vvvv : BitVec 4) (aaa : KReg) (z b : Bool) (dst : VReg) (src : Rm)
  /-- EVEX.512 (R100, R146). -/
  | vcvtps2pd512Evex (p : Prefixes) (vvvv : BitVec 4) (aaa : KReg) (z b : Bool) (dst : VReg) (src : Rm)
  deriving DecidableEq, Repr

/-- Why a byte string is given no meaning (R126): one name for each condition. Raised by the decoder; safe, since a
refusal says nothing about the chip (R18). -/
inductive DecodeRefusal where
  /-- A second segment override or a second `67` (R94, decision D28). -/
  | repeatedPrefix
  /-- `66`, `F2`, `F3` or `F0` among the prefixes (R92, R94, R98, R127). -/
  | forbiddenPrefix
  /-- A REX byte that does not stand immediately before `0F` (R95), before `C5`, `C4`, `62` among others (R98). -/
  | rexNotBeforeOpcode
  /-- The opcode bytes are those of no row (R103, R119). -/
  | otherOpcode
  /-- The map field of VEX3 is not 00001b, or EVEX `P0[3:0]` is not 0001b (R97, R119, R124). -/
  | otherMap
  /-- `pp` is not 00b (R124, R127). -/
  | otherPp
  /-- EVEX `W = 1` (R121). -/
  | evexW
  /-- EVEX P1 bit 2 is 0 (R124). -/
  | evexFixedBit
  /-- Stored `V'` is 0 (R124). -/
  | evexVPrime
  /-- `z = 1` with `aaa = 000b` (R123). -/
  | zeroingWithoutMask
  /-- `L'L = 11b` with `b = 0` or with a memory source (R122). -/
  | vectorLength
  /-- `b = 1` with a register source and `L'L` other than 10b, under `SaeLLPolicy = refuse` (R125). -/
  | saeVectorLength
  deriving DecidableEq, Repr

end Sys2Proof
end

