-- ==== Sys2Proof/WellFormed.lean ====
section
/-!
DEFINITION. Which terms of `Instr` an encoding can spell (spec/10_state.md R27, spec/30_encoding.md R106, R109, R120 to
R125). Every check is a Bool, so that it can be evaluated.
-/
namespace Sys2Proof

/-- A displacement that `mod = 00b` can leave out only when the base field is not 101b (R69, R109). -/
def Disp.wf (b : Gpr) : Disp → Bool
  | .none => b.extractLsb' 0 3 != 5
  | _ => true

/-- Base field 100b means a SIB byte, so a base without SIB has other low bits (R69); base field 101b with `mod = 00b`
means no base (R70) or RIP-relative (R71). -/
def MemForm.wf : MemForm → Bool
  | .ripRel _ => true
  | .base b d => b.extractLsb' 0 3 != 4 && d.wf b
  | .sib _ _ b d => d.wf b
  | .sibNoBase _ _ _ => true

def Rm.wf : Rm → Bool
  | .reg _ => true
  | .mem m => m.wf

/-- The operand needs no bit of the second half of a register file: a vector register below 16, which is all that a
four-bit register number can name (R106). -/
def Rm.fourBit : Rm → Bool
  | .reg n => n.ult 16
  | .mem _ => true

/-- The base and index of a memory operand are below 8, so that no extension bit is needed (R95, R99). -/
def MemForm.threeBit : MemForm → Bool
  | .ripRel _ => true
  | .base b _ => b.ult 8
  | .sib _ i b _ => i.ult 8 && b.ult 8
  | .sibNoBase _ i _ => i.ult 8

/-- The operand needs no extension bit: neither `B` nor `X` (R95, R99). -/
def Rm.threeBit : Rm → Bool
  | .reg n => n.ult 8
  | .mem m => m.threeBit

/-- The opcode row has no `b = 1` with a register source: that is the `{sae}` of the EVEX.512 row alone (R125). -/
def Rm.isReg : Rm → Bool
  | .reg _ => true
  | .mem _ => false

/-- `z = 1` needs a writemask (R123). A stored `vvvv` other than 1111b is reported first (R135 step 5), so it admits
every value of the other fields. -/
def evexMaskWf (vvvv : BitVec 4) (aaa : KReg) (z : Bool) : Bool :=
  vvvv != 15 || !(z && aaa == 0)

/-- `b = 1` with a register source belongs to EVEX.512 (R125). -/
def evexSaeWf (vvvv : BitVec 4) (b : Bool) (src : Rm) : Bool :=
  vvvv != 15 || !(b && src.isReg)

/-- The register numbers each format can name (R27), the admitted memory forms and the reserved combinations. -/
def Instr.wf : Instr → Bool
  | .cvtps2pd _ rex dst src => src.wf && src.fourBit && dst.ult 16 && (rex || (dst.ult 8 && src.threeBit))
  | .vcvtps2pd128Vex2 _ _ dst src => src.wf && dst.ult 16 && src.threeBit
  | .vcvtps2pd256Vex2 _ _ dst src => src.wf && dst.ult 16 && src.threeBit
  | .vcvtps2pd128Vex3 _ _ dst src => src.wf && dst.ult 16 && src.fourBit
  | .vcvtps2pd256Vex3 _ _ dst src => src.wf && dst.ult 16 && src.fourBit
  | .vcvtps2pd128Evex _ vvvv aaa z b _ src => src.wf && evexMaskWf vvvv aaa z && evexSaeWf vvvv b src
  | .vcvtps2pd256Evex _ vvvv aaa z b _ src => src.wf && evexMaskWf vvvv aaa z && evexSaeWf vvvv b src
  | .vcvtps2pd512Evex _ vvvv aaa z _ _ src => src.wf && evexMaskWf vvvv aaa z

end Sys2Proof
end

