-- ==== Sys2Proof/Decode.lean ====
section
/-!
DEFINITION. The decoder of 64-bit mode, total on any list of bytes (spec/30_encoding.md R135), the length of an
instruction (R115), the encoder (R93 to R109), and the opcode rows as data (R119).
-/
namespace Sys2Proof

/-! ## Length (R115) -/

/-- The number of legacy prefix bytes. -/
def Prefixes.count (p : Prefixes) : Nat :=
  (if p.seg.isSome then 1 else 0) + (if p.addr32 then 1 else 0)

/-- `D` of R115: the displacement bytes. -/
def Disp.length : Disp → Nat
  | .none => 0
  | .disp8 _ => 1
  | .disp32 _ => 4

/-- SIB and displacement bytes of a memory operand (R108, R109). -/
def MemForm.length : MemForm → Nat
  | .ripRel _ => 4
  | .base _ d => d.length
  | .sib _ _ _ d => 1 + d.length
  | .sibNoBase _ _ _ => 5

/-- ModRM, SIB and displacement bytes. -/
def Rm.length : Rm → Nat
  | .reg _ => 1
  | .mem m => 1 + m.length

/-- `len` of R115: prefixes, REX, `P` = 2, 3, 4 or 5, ModRM, SIB and displacement. -/
def Instr.length : Instr → Nat
  | .cvtps2pd p rex _ src => p.count + (if rex then 1 else 0) + 2 + src.length
  | .vcvtps2pd128Vex2 p _ _ src => p.count + 3 + src.length
  | .vcvtps2pd256Vex2 p _ _ src => p.count + 3 + src.length
  | .vcvtps2pd128Vex3 p _ _ src => p.count + 4 + src.length
  | .vcvtps2pd256Vex3 p _ _ src => p.count + 4 + src.length
  | .vcvtps2pd128Evex p _ _ _ _ _ src => p.count + 5 + src.length
  | .vcvtps2pd256Evex p _ _ _ _ _ src => p.count + 5 + src.length
  | .vcvtps2pd512Evex p _ _ _ _ _ src => p.count + 5 + src.length

/-! ## Bit fields of a byte (R9, R104, R108) -/

/-- Bit `i` of a byte as a one-bit field. -/
def bitField (x : Byte) (i : Nat) : BitVec 1 := x.extractLsb' i 1

/-- Bits `i+2 : i` of a byte. -/
def field3 (x : Byte) (i : Nat) : BitVec 3 := x.extractLsb' i 3

/-- Bits `i+1 : i` of a byte. -/
def field2 (x : Byte) (i : Nat) : BitVec 2 := x.extractLsb' i 2

/-- The stored `vvvv`, bits 6:3 of its prefix byte (R96, R97, R100). -/
def vvvvField (x : Byte) : BitVec 4 := x.extractLsb' 3 4

/-- The low four bits of a byte. -/
def low4 (x : Byte) : BitVec 4 := x.extractLsb' 0 4

/-- The high four bits of a byte. -/
def high4 (x : Byte) : BitVec 4 := x.extractLsb' 4 4

/-! ## Decoding -/

/-- What the decoder finds at the start of a byte list. -/
inductive Decoded where
  /-- a form, and the bytes after it -/
  | instr (i : Instr) (rest : List Byte)
  /-- `#UD` raised by decoding (R135 step 5) for bytes that no row's fields describe; `len` is their length -/
  | invalidOpcode (len : Nat)
  /-- no meaning, by name (R126) -/
  | refuse (r : DecodeRefusal)
  /-- the list ends inside the instruction -/
  | truncated
  deriving DecidableEq, Repr

/-- Four bytes, little-endian: the first is bits 7:0 (R109). -/
def readDisp32 : List Byte → Option (BitVec 32 × List Byte)
  | b0 :: b1 :: b2 :: b3 :: rest => some (b3 ++ b2 ++ b1 ++ b0, rest)
  | _ => none

/-- The displacement that `mod` (not 11b) selects (R109). -/
def readDisp (mod : BitVec 2) (bs : List Byte) : Option (Disp × List Byte) :=
  if mod = 0 then some (.none, bs)
  else if mod = 1 then
    match bs with
    | d :: rest => some (.disp8 d, rest)
    | [] => none
  else
    match readDisp32 bs with
    | some (d, rest) => some (.disp32 d, rest)
    | none => none

/-- The SIB byte and what follows it (R70, R108, R109). `x` and `b` are the extension bits. -/
def decodeSib (mod : BitVec 2) (x b : BitVec 1) (sib : Byte) (bs : List Byte) : Option (MemForm × List Byte) :=
  if mod = 0 ∧ field3 sib 0 = 5 then
    match readDisp32 bs with
    | some (d, rest) => some (.sibNoBase (field2 sib 6) (x ++ field3 sib 3) d, rest)
    | none => none
  else
    match readDisp mod bs with
    | some (d, rest) => some (.sib (field2 sib 6) (x ++ field3 sib 3) (b ++ field3 sib 0) d, rest)
    | none => none

/-- The memory operand of a ModRM byte with `mod` other than 11b (R69, R71, R104, R109). -/
def decodeMem (mod : BitVec 2) (rm : BitVec 3) (x b : BitVec 1) (bs : List Byte) : Option (MemForm × List Byte) :=
  if rm = 4 then
    match bs with
    | sib :: rest => decodeSib mod x b sib rest
    | [] => none
  else if mod = 0 ∧ rm = 5 then
    match readDisp32 bs with
    | some (d, rest) => some (.ripRel d, rest)
    | none => none
  else
    match readDisp mod bs with
    | some (d, rest) => some (.base (b ++ rm) d, rest)
    | none => none

/-- ModRM with SIB and displacement (R104): the `reg` field, operand 2, and the bytes after. `hi` is the fifth bit of a
register source, `X` in EVEX and 0 elsewhere; `x` and `b` extend index, base and register source (R106). -/
def decodeModRM (hi x b : BitVec 1) : List Byte → Option (BitVec 3 × Rm × List Byte)
  | [] => none
  | m :: bs =>
    if field2 m 6 = 3 then some (field3 m 3, .reg (hi ++ b ++ field3 m 0), bs)
    else
      match decodeMem (field2 m 6) (field3 m 0) x b bs with
      | some (mem, rest) => some (field3 m 3, .mem mem, rest)
      | none => none

/-- LEGACY, after the byte `0F`: `5A`, ModRM (R135 step 3). `rex` is the REX byte, if one stands before. -/
def decodeLegacy (p : Prefixes) (rex : Option Byte) : List Byte → Decoded
  | [] => .truncated
  | op :: bs =>
    if op = 0x5A then
      let r := match rex with | some x => bitField x 2 | none => 0
      let x := match rex with | some x => bitField x 1 | none => 0
      let b := match rex with | some x => bitField x 0 | none => 0
      match decodeModRM 0 x b bs with
      | some (reg, src, rest) => .instr (.cvtps2pd p rex.isSome (0#1 ++ r ++ reg) src) rest
      | none => .truncated
    else .refuse .otherOpcode

/-- VEX2, after the byte `C5` (R96, R135 step 3). -/
def decodeVex2 (p : Prefixes) : List Byte → Decoded
  | p0 :: op :: bs =>
    if field2 p0 0 ≠ 0 then .refuse .otherPp
    else if op ≠ 0x5A then .refuse .otherOpcode
    else
      match decodeModRM 0 0 0 bs with
      | none => .truncated
      | some (reg, src, rest) =>
        let dst := 0#1 ++ ~~~(bitField p0 7) ++ reg
        if bitField p0 2 = 0 then .instr (.vcvtps2pd128Vex2 p (vvvvField p0) dst src) rest
        else .instr (.vcvtps2pd256Vex2 p (vvvvField p0) dst src) rest
  | _ => .truncated

/-- VEX3, after the byte `C4` (R97, R135 step 3). `W` is ignored (R121). -/
def decodeVex3 (p : Prefixes) : List Byte → Decoded
  | p0 :: p1 :: op :: bs =>
    if p0.extractLsb' 0 5 ≠ 1#5 then .refuse .otherMap
    else if field2 p1 0 ≠ 0 then .refuse .otherPp
    else if op ≠ 0x5A then .refuse .otherOpcode
    else
      match decodeModRM 0 (~~~(bitField p0 6)) (~~~(bitField p0 5)) bs with
      | none => .truncated
      | some (reg, src, rest) =>
        let dst := 0#1 ++ ~~~(bitField p0 7) ++ reg
        if bitField p1 2 = 0 then .instr (.vcvtps2pd128Vex3 p (vvvvField p1) dst src) rest
        else .instr (.vcvtps2pd256Vex3 p (vvvvField p1) dst src) rest
  | _ => .truncated

/-- Is the one-bit field 1? -/
def isSet (x : BitVec 1) : Bool := x == 1

/-- The EVEX row that `L'L` selects (R101, R119); none for 11b. -/
def evexRow (p : Prefixes) (vvvv : BitVec 4) (aaa : KReg) (z b : Bool) (dst : VReg) (src : Rm) (ll : BitVec 2) :
    Option Instr :=
  if ll = 0 then some (.vcvtps2pd128Evex p vvvv aaa z b dst src)
  else if ll = 1 then some (.vcvtps2pd256Evex p vvvv aaa z b dst src)
  else if ll = 2 then some (.vcvtps2pd512Evex p vvvv aaa z b dst src)
  else none

/-- Steps 5 and 6 of R135 for EVEX, the fields extracted: first the `#UD` on `vvvv`, which an instruction of a row
raises when it executes and which bytes of no row (`L'L = 11b`) raise here; then R124, R123, R125, R122. -/
def evexFields (pol : SaeLLPolicy) (p : Prefixes) (p1 p2 : Byte) (dst : VReg) (src : Rm) (rest : List Byte) : Decoded :=
  let vvvv := vvvvField p1
  let z := isSet (bitField p2 7)
  let ll := p2.extractLsb' 5 2
  let b := isSet (bitField p2 4)
  let aaa := field3 p2 0
  if vvvv ≠ 15 then
    match evexRow p vvvv aaa z b dst src ll with
    | some i => .instr i rest
    | none => .invalidOpcode (p.count + 5 + src.length)
  else if bitField p2 3 = 0 then .refuse .evexVPrime
  else if z ∧ aaa = 0 then .refuse .zeroingWithoutMask
  else if b ∧ src.isReg ∧ ll ≠ 2 then
    match pol with
    | .refuse => .refuse .saeVectorLength
    | .vl512 => .instr (.vcvtps2pd512Evex p vvvv aaa z b dst src) rest
  else
    match evexRow p vvvv aaa z b dst src ll with
    | some i => .instr i rest
    | none => .refuse .vectorLength

/-- EVEX, after the byte `62` (R100, R101, R135 step 3). -/
def decodeEvex (pol : SaeLLPolicy) (p : Prefixes) : List Byte → Decoded
  | p0 :: p1 :: p2 :: op :: bs =>
    if low4 p0 ≠ 1 then .refuse .otherMap
    else if bitField p1 7 ≠ 0 then .refuse .evexW
    else if bitField p1 2 ≠ 1 then .refuse .evexFixedBit
    else if field2 p1 0 ≠ 0 then .refuse .otherPp
    else if op ≠ 0x5A then .refuse .otherOpcode
    else
      let x := ~~~(bitField p0 6)
      match decodeModRM x x (~~~(bitField p0 5)) bs with
      | none => .truncated
      | some (reg, src, rest) =>
        evexFields pol p p1 p2 (~~~(bitField p0 4) ++ ~~~(bitField p0 7) ++ reg) src rest
  | _ => .truncated

/-- Steps 2 and 3 of R135: the byte after the legacy prefixes. -/
def decodeOpcode (pol : SaeLLPolicy) (p : Prefixes) (b : Byte) (bs : List Byte) : Decoded :=
  if high4 b = 4 then
    match bs with
    | [] => .truncated
    | op :: bs' => if op = 0x0F then decodeLegacy p (some b) bs' else .refuse .rexNotBeforeOpcode
  else if b = 0x0F then decodeLegacy p none bs
  else if b = 0xC5 then decodeVex2 p bs
  else if b = 0xC4 then decodeVex3 p bs
  else if b = 0x62 then decodeEvex pol p bs
  else .refuse .otherOpcode

/-- The segment a prefix byte names (R74, R94). -/
def segmentOf (b : Byte) : Option Segment :=
  if b = 0x26 then some .es
  else if b = 0x2E then some .cs
  else if b = 0x36 then some .ss
  else if b = 0x3E then some .ds
  else if b = 0x64 then some .fs
  else if b = 0x65 then some .gs
  else none

/-- The prefixes that change the instruction or make it invalid (R92, R94, R98, R127). -/
def isForbiddenPrefix (b : Byte) : Bool :=
  b == 0x66 || b == 0xF2 || b == 0xF3 || b == 0xF0

/-- Step 1 of R135: collect the admitted prefixes, each at most once (R94, decision D28). -/
def decodeFrom (pol : SaeLLPolicy) : Prefixes → List Byte → Decoded
  | _, [] => .truncated
  | p, b :: bs =>
    match segmentOf b with
    | some sg =>
      if p.seg.isSome then .refuse .repeatedPrefix else decodeFrom pol { p with seg := some sg } bs
    | none =>
      if b = 0x67 then
        if p.addr32 then .refuse .repeatedPrefix else decodeFrom pol { p with addr32 := true } bs
      else if isForbiddenPrefix b then .refuse .forbiddenPrefix
      else decodeOpcode pol p b bs

/-- The decoder (R135): the instruction at the start of `bs`. -/
def decode (pol : SaeLLPolicy) (bs : List Byte) : Decoded := decodeFrom pol Prefixes.empty bs

/-! ## Encoding (R93 to R109): one canonical spelling for each well-formed instruction -/

/-- The byte that names a segment (R94). -/
def Segment.byte : Segment → Byte
  | .es => 0x26
  | .cs => 0x2E
  | .ss => 0x36
  | .ds => 0x3E
  | .fs => 0x64
  | .gs => 0x65

/-- The segment-override byte, if there is one. -/
def Prefixes.segBytes (p : Prefixes) : List Byte := match p.seg with | some s => [s.byte] | none => []

/-- The byte `67`, if it is there. -/
def Prefixes.addrBytes (p : Prefixes) : List Byte := if p.addr32 then [0x67#8] else []

/-- The prefix bytes, the segment override first. -/
def Prefixes.encode (p : Prefixes) : List Byte := p.segBytes ++ p.addrBytes

/-- The byte strings that spell the prefixes: they may stand in any order (R94), and there are at most two of them. -/
def Prefixes.spelledBy (p : Prefixes) (pre : List Byte) : Prop :=
  pre = p.segBytes ++ p.addrBytes ∨ pre = p.addrBytes ++ p.segBytes

/-- Little-endian bytes of a displacement (R109). -/
def disp32Bytes (d : BitVec 32) : List Byte :=
  [d.extractLsb' 0 8, d.extractLsb' 8 8, d.extractLsb' 16 8, d.extractLsb' 24 8]

def Disp.encode : Disp → List Byte
  | .none => []
  | .disp8 d => [d]
  | .disp32 d => disp32Bytes d

/-- The `mod` field of a displacement (R109). -/
def Disp.mod : Disp → BitVec 2
  | .none => 0
  | .disp8 _ => 1
  | .disp32 _ => 2

/-- The ModRM byte (R104); the SIB byte has the same shape (R108). -/
def packModRM (mod : BitVec 2) (reg rm : BitVec 3) : Byte := mod ++ reg ++ rm

/-- The low three bits of a register number. -/
def gprLow (r : Gpr) : BitVec 3 := r.extractLsb' 0 3

/-- The extension bit of a general register number. -/
def gprHigh (r : Gpr) : BitVec 1 := r.extractLsb' 3 1

/-- ModRM, SIB and displacement of a memory operand, with `reg` in the ModRM byte. -/
def MemForm.encode (reg : BitVec 3) : MemForm → List Byte
  | .ripRel d => packModRM 0 reg 5 :: disp32Bytes d
  | .base b d => packModRM d.mod reg (gprLow b) :: d.encode
  | .sib sc i b d => packModRM d.mod reg 4 :: packModRM sc (gprLow i) (gprLow b) :: d.encode
  | .sibNoBase sc i d => packModRM 0 reg 4 :: packModRM sc (gprLow i) 5 :: disp32Bytes d

def Rm.encode (reg : BitVec 3) : Rm → List Byte
  | .reg n => [packModRM 3 reg (n.extractLsb' 0 3)]
  | .mem m => m.encode reg

/-- The bit `B` of an operand (R106). -/
def Rm.bitB : Rm → BitVec 1
  | .reg n => n.extractLsb' 3 1
  | .mem (.base b _) => gprHigh b
  | .mem (.sib _ _ b _) => gprHigh b
  | .mem _ => 0

/-- The bit `X` of an operand: the fifth bit of a register source, the extension of an index (R106). -/
def Rm.bitX : Rm → BitVec 1
  | .reg n => n.extractLsb' 4 1
  | .mem (.sib _ i _ _) => gprHigh i
  | .mem (.sibNoBase _ i _) => gprHigh i
  | .mem _ => 0

/-- The bits `reg`, `R` and `R'` of a destination (R106). -/
def dstLow (n : VReg) : BitVec 3 := n.extractLsb' 0 3
def dstR (n : VReg) : BitVec 1 := n.extractLsb' 3 1
def dstR' (n : VReg) : BitVec 1 := n.extractLsb' 4 1

/-- A REX byte `0100WRXB` with `W = 0` (R95). -/
def rexByte (r x b : BitVec 1) : Byte := 4#4 ++ 0#1 ++ r ++ x ++ b

/-- The byte `R̄ vvvv L pp` of VEX2 (R96). -/
def vex2Byte (r : BitVec 1) (vvvv : BitVec 4) (l : BitVec 1) : Byte := ~~~r ++ vvvv ++ l ++ 0#2

/-- The byte `R̄ X̄ B̄ mmmmm` of VEX3 with map `0F` (R97). -/
def vex3Byte0 (r x b : BitVec 1) : Byte := ~~~r ++ ~~~x ++ ~~~b ++ 1#5

/-- The byte `W vvvv L pp` of VEX3 with `W = 0` (R97, R121). -/
def vex3Byte1 (vvvv : BitVec 4) (l : BitVec 1) : Byte := 0#1 ++ vvvv ++ l ++ 0#2

/-- The byte `R̄ X̄ B̄ R̄' 0 mmm` of EVEX (R100, R101). -/
def evexByte0 (r x b r' : BitVec 1) : Byte := ~~~r ++ ~~~x ++ ~~~b ++ ~~~r' ++ 1#4

/-- The byte `W vvvv 1 pp` of EVEX with `W = 0` (R100, R101). -/
def evexByte1 (vvvv : BitVec 4) : Byte := 0#1 ++ vvvv ++ 4#3

/-- The byte `z L'L b V̄' aaa` of EVEX with stored `V'` = 1 (R100, R101). -/
def evexByte2 (z : Bool) (ll : BitVec 2) (b : Bool) (aaa : KReg) : Byte :=
  BitVec.ofBool z ++ ll ++ BitVec.ofBool b ++ 1#1 ++ aaa

/-- The bytes of a VEX2 form (R93). -/
def encodeVex2 (p : Prefixes) (l : BitVec 1) (vvvv : BitVec 4) (dst : VReg) (src : Rm) : List Byte :=
  p.encode ++ 0xC5 :: vex2Byte (dstR dst) vvvv l :: 0x5A :: src.encode (dstLow dst)

/-- The bytes of a VEX3 form (R93). -/
def encodeVex3 (p : Prefixes) (l : BitVec 1) (vvvv : BitVec 4) (dst : VReg) (src : Rm) : List Byte :=
  p.encode ++ 0xC4 :: vex3Byte0 (dstR dst) src.bitX src.bitB :: vex3Byte1 vvvv l :: 0x5A :: src.encode (dstLow dst)

/-- The bytes of an EVEX form (R93). -/
def encodeEvex (p : Prefixes) (ll : BitVec 2) (vvvv : BitVec 4) (aaa : KReg) (z b : Bool) (dst : VReg) (src : Rm) :
    List Byte :=
  p.encode ++ 0x62 :: evexByte0 (dstR dst) src.bitX src.bitB (dstR' dst) :: evexByte1 vvvv ::
    evexByte2 z ll b aaa :: 0x5A :: src.encode (dstLow dst)

/-- The bytes of an instruction in address order (R93). -/
def encode : Instr → List Byte
  | .cvtps2pd p rex dst src =>
    p.encode ++ (if rex then [rexByte (dstR dst) src.bitX src.bitB] else []) ++
      0x0F :: 0x5A :: src.encode (dstLow dst)
  | .vcvtps2pd128Vex2 p vvvv dst src => encodeVex2 p 0 vvvv dst src
  | .vcvtps2pd256Vex2 p vvvv dst src => encodeVex2 p 1 vvvv dst src
  | .vcvtps2pd128Vex3 p vvvv dst src => encodeVex3 p 0 vvvv dst src
  | .vcvtps2pd256Vex3 p vvvv dst src => encodeVex3 p 1 vvvv dst src
  | .vcvtps2pd128Evex p vvvv aaa z b dst src => encodeEvex p 0 vvvv aaa z b dst src
  | .vcvtps2pd256Evex p vvvv aaa z b dst src => encodeEvex p 1 vvvv aaa z b dst src
  | .vcvtps2pd512Evex p vvvv aaa z b dst src => encodeEvex p 2 vvvv aaa z b dst src

/-! ## The opcode rows as data (R119, spec/opcode_table.json) -/

/-- One row: the bytes matched after the legacy prefixes (and REX), and the bits of them that are matched. -/
structure OpcodeRow where
  pattern : List Byte
  mask : List Byte
  deriving DecidableEq, Repr

/-- The eight rows of R119, in its order. -/
def opcodeRows : List OpcodeRow :=
  [ ⟨[0x0F, 0x5A], [0xFF, 0xFF]⟩,
    ⟨[0xC5, 0x00, 0x5A], [0xFF, 0x07, 0xFF]⟩,
    ⟨[0xC5, 0x04, 0x5A], [0xFF, 0x07, 0xFF]⟩,
    ⟨[0xC4, 0x01, 0x00, 0x5A], [0xFF, 0x1F, 0x07, 0xFF]⟩,
    ⟨[0xC4, 0x01, 0x04, 0x5A], [0xFF, 0x1F, 0x07, 0xFF]⟩,
    ⟨[0x62, 0x01, 0x04, 0x00, 0x5A], [0xFF, 0x0F, 0x87, 0x60, 0xFF]⟩,
    ⟨[0x62, 0x01, 0x04, 0x20, 0x5A], [0xFF, 0x0F, 0x87, 0x60, 0xFF]⟩,
    ⟨[0x62, 0x01, 0x04, 0x40, 0x5A], [0xFF, 0x0F, 0x87, 0x60, 0xFF]⟩ ]

/-- Does a byte string start with a masked pattern? -/
def matchesBytes : List Byte → List Byte → List Byte → Bool
  | p :: ps, m :: ms, b :: bs => b &&& m == p && matchesBytes ps ms bs
  | [], _, _ => true
  | _, _, _ => false

/-- Does a byte string match a row? -/
def OpcodeRow.accepts (row : OpcodeRow) (bs : List Byte) : Bool := matchesBytes row.pattern row.mask bs

/-- The row of an instruction, as a position in `opcodeRows`. -/
def Instr.rowIndex : Instr → Nat
  | .cvtps2pd .. => 0
  | .vcvtps2pd128Vex2 .. => 1
  | .vcvtps2pd256Vex2 .. => 2
  | .vcvtps2pd128Vex3 .. => 3
  | .vcvtps2pd256Vex3 .. => 4
  | .vcvtps2pd128Evex .. => 5
  | .vcvtps2pd256Evex .. => 6
  | .vcvtps2pd512Evex .. => 7

/-- The legacy prefixes of an instruction. -/
def Instr.prefixes : Instr → Prefixes
  | .cvtps2pd p .. => p
  | .vcvtps2pd128Vex2 p .. => p
  | .vcvtps2pd256Vex2 p .. => p
  | .vcvtps2pd128Vex3 p .. => p
  | .vcvtps2pd256Vex3 p .. => p
  | .vcvtps2pd128Evex p .. => p
  | .vcvtps2pd256Evex p .. => p
  | .vcvtps2pd512Evex p .. => p

/-- How many bytes stand before the bytes a row matches: prefixes and REX (R119). -/
def Instr.lead : Instr → Nat
  | .cvtps2pd p rex _ _ => p.count + (if rex then 1 else 0)
  | i => i.prefixes.count

/-! ## Words as numbers, for the host -/

/-- `n` bytes of the number `w`, the least significant first. -/
def bytesOfNat (w : Nat) : Nat → List Byte
  | 0 => []
  | n + 1 => BitVec.ofNat 8 w :: bytesOfNat (w / 256) n

/-- The bytes of an instruction given as its low `nbits` bits, the rest zero, up to the longest instruction. -/
def wordBytes (nbits w : Nat) : List Byte := bytesOfNat (w % 2 ^ nbits) Config.maxInstrBytes

/-- The instruction the decoder reads from a word, under the default `SaeLLPolicy` of R7; none where it refuses. -/
def decodeTableWord (nbits w : Nat) : Option Instr :=
  match decode .refuse (wordBytes nbits w) with
  | .instr i _ => some i
  | _ => none

end Sys2Proof
end

