-- ==== Sys2Proof/Machine/State.lean ====
section
/-!
DEFINITION. The machine's state as plain data (spec/10_state.md, spec/20_memory.md R60), its exceptions
(spec/60_exceptions.md R200), the reasons a step can stop, and the state after RESET (spec/10_state.md R46).
-/
namespace Sys2Proof.Machine

/-- The processor's operating mode (R3, R7, R46). Only `mode64` is admitted (decision D1). -/
inductive Mode where
  | realAddress
  | virtual8086
  | protectedMode
  | compatibility
  | mode64
  deriving DecidableEq, Repr

/-- What the address map says of a range, beside which bytes exist (R68, R76, R221). -/
inductive RegionKind where
  /-- readable below CPL 3 only: page permissions distinguish user from supervisor access (R221) -/
  | supervisor
  /-- a read has side effects: a device (R68, R223) -/
  | sideEffects
  deriving DecidableEq, Repr

/-- A range of linear addresses, both ends included. -/
structure Region where
  first : Quad
  last : Quad
  kind : RegionKind
  deriving DecidableEq, Repr

/-- The architectural state. MODEL's own fields: `regions`, `breakpoints`, `proc` (logs 4, 7, 18). -/
structure State where
  /-- vector registers ZMM0..ZMM31 (R25, R26) -/
  v : Vector ZmmValue 32
  /-- opmask registers k0..k7 (R30) -/
  k : Vector (BitVec 64) 8
  /-- MXCSR (R33) -/
  mxcsr : BitVec 32
  /-- RIP (R35) -/
  rip : Quad
  /-- general registers (R37) -/
  gpr : Vector Quad 16
  /-- CS.base, zero in 64-bit mode (R38, R46) -/
  csBase : Quad
  /-- FS.base (R38, R74) -/
  fsBase : Quad
  /-- GS.base (R38, R74) -/
  gsBase : Quad
  /-- RFLAGS (R39, R46) -/
  rflags : Quad
  /-- CR0 (R41) -/
  cr0 : Quad
  /-- CR2 (R200, R216): written only by exception delivery, which is out of scope -/
  cr2 : Quad
  /-- CR4 (R41) -/
  cr4 : Quad
  /-- XCR0 (R42) -/
  xcr0 : Quad
  /-- current privilege level (R43, R221) -/
  cpl : BitVec 2
  /-- operating mode; IA32_EFER.LMA and CS.L are views of it (R251 P1) -/
  mode : Mode
  /-- the listed bytes of memory, addresses rising (R60) -/
  mem : List Host.Cell
  /-- the address map as `MemRead` sees it (R76) -/
  regions : List Region
  /-- linear byte addresses with an enabled breakpoint (R225, R251 P10) -/
  breakpoints : List Quad
  /-- implementation parameters (R7) -/
  proc : Processor
  deriving DecidableEq, Repr

/-- A page-fault code, by the names of its bits. R208 fixes the write and instruction-fetch bits to 0; the other two are
PRESUMED (log 9). -/
structure PageFaultCode where
  present : Bool
  write : Bool
  user : Bool
  fetch : Bool
  deriving DecidableEq, Repr

/-- The exceptions of R200. Each is a fault in the sense of R214: precise, with `pc` unchanged. -/
inductive Exception where
  /-- `#UD`. Raised by decoding (stored `vvvv`, R201), a missing feature (R203), the enabling bits (R204), and an
  unmasked SIMD floating-point exception with CR4.OSXMMEXCPT = 0 (R209). Safe: the spec states it. -/
  | invalidOpcode
  /-- `#NM`. Raised by every form when CR0.TS = 1 (R205). Safe: the spec states it. -/
  | deviceNotAvailable
  /-- `#SS(0)`. Raised by a memory source at a non-canonical SS-relative address (R74, R208). Safe: the spec states it. -/
  | stackFault
  /-- `#GP(0)`. Raised by a memory source at any other non-canonical address (R74, R208). Safe: the spec states it. -/
  | generalProtection
  /-- `#PF(code)` with the linear address of an unreadable operand byte (R208). Raised by a memory source. Safe: a byte
  the model does not list faults where a machine may read it (log 6). -/
  | pageFault (code : PageFaultCode) (address : Quad)
  /-- `#AC(0)`. Raised by a misaligned memory source with alignment checking on (R65, R206, R207). Safe: log 10. -/
  | alignmentCheck
  /-- `#XM`. Raised by an unmasked Invalid or Denormal with CR4.OSXMMEXCPT = 1 (R184, R209). Safe: the spec states it. -/
  | simdFloatingPoint
  deriving DecidableEq, Repr

/-- How a step faults: the outcome `Fault(vector, info)` of R18. -/
inductive Fault where
  /-- Raised by `raise` alone: the exception and the machine's state at that moment, which R215 describes. Delivery
  (R216) is out of scope by 00_scope.md R6. Safe: a faulted state is never final (log 12). -/
  | raised (e : Exception) (at_ : State)
  deriving DecidableEq, Repr

/-- Why a step is given no meaning. A refusal says nothing about the chip (R18), so every one of them is safe. -/
inductive Refusal where
  /-- An instruction without a meaning yet. Answered by `exec` alone; safe. -/
  | notModelled (mnemonic : String)
  /-- The bytes at `pc` have no meaning (R126), by reason. Answered by the decoder and by a form whose fields no
  encoding spells; safe. -/
  | decode (r : DecodeRefusal)
  /-- The mode is not 64-bit mode (R3, decision D1). Answered by the fetch; safe. -/
  | modeNotAdmitted
  /-- RFLAGS.TF = 1 (R225, R251 P10). Answered by the fetch; safe. -/
  | singleStep
  /-- An enabled breakpoint stands on the instruction (R225, R251 P10). Answered by the fetch; safe. -/
  | instructionBreakpoint
  /-- An enabled breakpoint stands on a byte of the memory source (R225, R251 P10). Answered by a memory read; safe. -/
  | dataBreakpoint
  /-- `pc .. pc + len` is not inside one canonical half (R36, decision D27). Answered by the fetch; safe. -/
  | pcOutsideCanonicalHalf
  /-- The bytes of the instruction are not all readable (R251 P9). Answered by the fetch; safe. -/
  | codeUnreadable
  /-- The memory source lies in a region with read side effects (R68, R223). Answered by a memory read; safe. -/
  | readSideEffects
  deriving DecidableEq, Repr

/-- The outcome of a step or of an instruction (R18). -/
abbrev Result := Host.Outcome State Fault Refusal

/-- The processor the model resets to: every feature (the convention of 95_test_vectors.md), the default policy of R7,
48-bit linear addresses, DAZ present. DESIGN CHOICE, unsafe: logs 4, 14, 25. -/
def Processor.reset : Processor :=
  { features := ⟨true, true, true, true⟩, saeLL := .refuse, linear := .la48, dazSupported := true }

/-- The state after power-up or RESET (R46, second column). No form can run in it (R46, last paragraph): log 1 says how
a program comes to run. The spec gives no value for RDX (log 2), FS.base, GS.base and CR2 (log 3). -/
def State.reset : State :=
  { v := Vector.replicate 32 0
    k := Vector.replicate 8 0
    mxcsr := 0x00001F80
    rip := 0x0000FFF0
    gpr := Vector.replicate 16 0
    csBase := 0xFFFF0000
    fsBase := 0
    gsBase := 0
    rflags := 0x00000002
    cr0 := 0x60000010
    cr2 := 0
    cr4 := 0
    xcr0 := 1
    cpl := 0
    mode := .realAddress
    mem := []
    regions := []
    breakpoints := []
    proc := Processor.reset }

end Sys2Proof.Machine
end

