-- ==== Sys2Proof/Machine/Flags.lean ====
section
/-!
DEFINITION. The fields of MXCSR and of the control registers (spec/10_state.md R33, R41, R42), and the flag law
(spec/41_numerics.md R182, R184).
-/
namespace Sys2Proof.Machine

/-! ## MXCSR (R33) -/

/-- The fields of MXCSR that are one bit wide. -/
inductive MxcsrBit where
  | ie | de | ze | oe | ue | pe | daz | im | dm | zm | om | um | pm | ftz
  deriving DecidableEq, Repr

/-- The position of a field (R33). -/
def MxcsrBit.pos : MxcsrBit → Nat
  | .ie => 0 | .de => 1 | .ze => 2 | .oe => 3 | .ue => 4 | .pe => 5 | .daz => 6
  | .im => 7 | .dm => 8 | .zm => 9 | .om => 10 | .um => 11 | .pm => 12 | .ftz => 15

/-- Read a one-bit field of MXCSR. -/
def mxcsrBit (m : BitVec 32) (b : MxcsrBit) : Bool := m.getLsbD b.pos

/-- The rounding control, bits 14:13 (R33). No form reads it (R173). -/
def mxcsrRC (m : BitVec 32) : BitVec 2 := m.extractLsb' 13 2

/-- The reserved bits 31:16, which must be zero (R33). -/
def mxcsrReserved (m : BitVec 32) : BitVec 16 := m.extractLsb' 16 16

/-- DAZ as the instruction reads it: 0 on a processor without the bit (R33). -/
def State.daz (s : State) : Bool := s.proc.dazSupported && mxcsrBit s.mxcsr .daz

/-- What the converted elements signal together: `IE_any` and `DE_any` (R182). -/
structure Signals where
  ie : Bool
  de : Bool
  deriving DecidableEq, Repr

/-- The flag law (R182): each flag is ORed with its signal; no other bit changes. -/
def recordSignals (sig : Signals) (m : BitVec 32) : BitVec 32 :=
  m ||| (if sig.ie then 1 else 0) ||| (if sig.de then 2 else 0)

/-- Is a signalled exception unmasked (R184)? -/
def unmasked (sig : Signals) (m : BitVec 32) : Bool :=
  (sig.ie && !mxcsrBit m .im) || (sig.de && !mxcsrBit m .dm)

/-! ## Control registers and RFLAGS (R41, R42, R225) -/

/-- CR0.EM, bit 2. -/
def State.cr0EM (s : State) : Bool := s.cr0.getLsbD 2
/-- CR0.TS, bit 3. -/
def State.cr0TS (s : State) : Bool := s.cr0.getLsbD 3
/-- CR0.AM, bit 18. -/
def State.cr0AM (s : State) : Bool := s.cr0.getLsbD 18
/-- CR4.OSFXSR, bit 9. -/
def State.osfxsr (s : State) : Bool := s.cr4.getLsbD 9
/-- CR4.OSXMMEXCPT, bit 10. -/
def State.osxmmexcpt (s : State) : Bool := s.cr4.getLsbD 10
/-- CR4.OSXSAVE, bit 18. -/
def State.osxsave (s : State) : Bool := s.cr4.getLsbD 18
/-- XCR0[2:1], the SSE and AVX state bits. -/
def State.xcr0Avx (s : State) : BitVec 2 := s.xcr0.extractLsb' 1 2
/-- XCR0[7:5], the opmask, ZMM_Hi256 and Hi16_ZMM state bits. -/
def State.xcr0Avx512 (s : State) : BitVec 3 := s.xcr0.extractLsb' 5 3
/-- RFLAGS.AC, bit 18 (R41). -/
def State.flagAC (s : State) : Bool := s.rflags.getLsbD 18
/-- RFLAGS.TF. The position, bit 8, is PRESUMED: the spec names the flag only (log 18). -/
def State.flagTF (s : State) : Bool := s.rflags.getLsbD 8

/-- IA32_EFER.LMA as a view of the mode (R251 P1). -/
def State.lma (s : State) : Bool := s.mode = .mode64 || s.mode = .compatibility
/-- CS.L as a view of the mode (R251 P1). -/
def State.csL (s : State) : Bool := s.mode = .mode64

end Sys2Proof.Machine
end

