-- ==== Sys2Proof/Machine/Numerics.lean ====
section
/-!
DEFINITION. The two floating-point formats and the conversion function (spec/41_numerics.md R170 to R180).
-/
namespace Sys2Proof.Machine

/-! ## Formats (R170, R171) -/

def singleSign (w : Single) : BitVec 1 := w.extractLsb' 31 1
def singleExp (w : Single) : BitVec 8 := w.extractLsb' 23 8
def singleFrac (w : Single) : BitVec 23 := w.extractLsb' 0 23

def doubleSign (d : Double) : BitVec 1 := d.extractLsb' 63 1
def doubleExp (d : Double) : BitVec 11 := d.extractLsb' 52 11
def doubleFrac (d : Double) : BitVec 52 := d.extractLsb' 0 52

/-- A double from its sign, biased exponent and fraction (R171). -/
def packDouble (s : BitVec 1) (e : BitVec 11) (f : BitVec 52) : Double := s ++ e ++ f

/-- The classes of both formats (R170, R171). -/
inductive FloatClass where
  | zero
  | denormal
  | normal
  | infinity
  | quietNaN
  | signalingNaN
  deriving DecidableEq, Repr

/-- The class of a single (R170). -/
def singleClass (w : Single) : FloatClass :=
  if singleExp w = 0 then (if singleFrac w = 0 then .zero else .denormal)
  else if singleExp w = 255 then
    (if singleFrac w = 0 then .infinity else if (singleFrac w).getLsbD 22 then .quietNaN else .signalingNaN)
  else .normal

/-- The class of a double (R171). -/
def doubleClass (d : Double) : FloatClass :=
  if doubleExp d = 0 then (if doubleFrac d = 0 then .zero else .denormal)
  else if doubleExp d = 2047 then
    (if doubleFrac d = 0 then .infinity else if (doubleFrac d).getLsbD 51 then .quietNaN else .signalingNaN)
  else .normal

/-- A magnitude with the sign of a sign bit. -/
def withSign (s : BitVec 1) (m : Nat) : Int := if s = 1 then -(m : Int) else (m : Int)

/-- The exact value of a finite single in units of 2^-149 (R170); none for an infinity or a NaN. -/
def singleUnits (w : Single) : Option Int :=
  match singleClass w with
  | .zero => some 0
  | .denormal => some (withSign (singleSign w) (singleFrac w).toNat)
  | .normal => some (withSign (singleSign w) ((2 ^ 23 + (singleFrac w).toNat) * 2 ^ ((singleExp w).toNat - 1)))
  | _ => none

/-- The exact value of a finite double in units of 2^-1074 (R171); none for an infinity or a NaN. -/
def doubleUnits (d : Double) : Option Int :=
  match doubleClass d with
  | .zero => some 0
  | .denormal => some (withSign (doubleSign d) (doubleFrac d).toNat)
  | .normal => some (withSign (doubleSign d) ((2 ^ 52 + (doubleFrac d).toNat) * 2 ^ ((doubleExp d).toNat - 1)))
  | _ => none

/-! ## The conversion (R172) -/

/-- The result of converting one element: the double, and whether it signals Invalid and Denormal. -/
structure CvtResult where
  d : Double
  ie : Bool
  de : Bool
  deriving DecidableEq, Repr

/-- `p = floor(log2(f))`, the index of the highest 1 bit (R172). -/
def topBit (f : BitVec 23) : Nat := Nat.log2 f.toNat

/-- The 23 fraction bits in the top of the 52 (R175, R179). -/
def widenFrac (f : BitVec 23) : BitVec 52 := f.setWidth 52 <<< 29

/-- The fraction of the exact normal double of a denormal single: `(f - 2^p) << (52 - p)` (R176). -/
def normalizedFrac (f : BitVec 23) : BitVec 52 :=
  BitVec.ofNat 52 ((f.toNat - 2 ^ topBit f) * 2 ^ (52 - topBit f))

/-- `CvtS2D(w, daz)` (R172), the seven cases in the rule's order. -/
def cvtS2D (w : Single) (daz : Bool) : CvtResult :=
  let s := singleSign w
  let e := singleExp w
  let f := singleFrac w
  if e = 0 ∧ f = 0 then ⟨packDouble s 0 0, false, false⟩
  else if e = 0 ∧ daz = true then ⟨packDouble s 0 0, false, false⟩
  else if e = 0 then ⟨packDouble s (BitVec.ofNat 11 (topBit f + 874)) (normalizedFrac f), false, true⟩
  else if e ≠ 255 then ⟨packDouble s (BitVec.ofNat 11 (e.toNat + 896)) (widenFrac f), false, false⟩
  else if f = 0 then ⟨packDouble s 0x7FF 0, false, false⟩
  else if f.getLsbD 22 = true then ⟨packDouble s 0x7FF (widenFrac f), false, false⟩
  else ⟨packDouble s 0x7FF (widenFrac (f ||| 0x400000)), true, false⟩

end Sys2Proof.Machine
end

