-- ==== Sys2Proof/Machine/Memory.lean ====
section
/-!
DEFINITION. Memory as a list of (address, byte) cells in one canonical form: addresses strictly rising and below 2^64
(spec/20_memory.md R60, R61). An unlisted address has no value: it cannot be read (log 6).
-/
namespace Sys2Proof.Machine

/-- The cells that may follow an address in canonical form. -/
def Memory.wfFrom (low : Nat) : List Host.Cell → Bool
  | [] => true
  | (a, _) :: m => low ≤ a && a < 2 ^ 64 && Memory.wfFrom (a + 1) m

/-- The canonical form: addresses strictly rising, all below 2^64. -/
def Memory.wf (m : List Host.Cell) : Bool := Memory.wfFrom 0 m

/-- The byte at an address; none where nothing is listed. -/
def Memory.read : List Host.Cell → Nat → Option Byte
  | [], _ => none
  | (k, b) :: m, a => if a = k then some b else Memory.read m a

/-- Store one byte, keeping the canonical form. -/
def Memory.write (a : Nat) (b : Byte) : List Host.Cell → List Host.Cell
  | [] => [(a, b)]
  | (k, c) :: m =>
    if a < k then (a, b) :: (k, c) :: m
    else if a = k then (a, b) :: m
    else (k, c) :: Memory.write a b m

/-- `MemWrite` of R13: store bytes at rising addresses, modulo 2^64. No instruction uses it. -/
def Memory.writeBytes (m : List Host.Cell) (a : Quad) : List Byte → List Host.Cell
  | [] => m
  | b :: bs => Memory.writeBytes (Memory.write a.toNat b m) (a + 1) bs

/-- The listed bytes from an address on, at most `n`, up to the first unlisted one. -/
def Memory.readPrefix (m : List Host.Cell) (a : Quad) : Nat → List Byte
  | 0 => []
  | n + 1 =>
    match Memory.read m a.toNat with
    | some b => b :: Memory.readPrefix m (a + 1) n
    | none => []

/-- Little-endian assembly: the first byte is bits 7:0 (R61). -/
def littleEndian : List Byte → Nat
  | [] => 0
  | b :: bs => b.toNat + 256 * littleEndian bs

end Sys2Proof.Machine
end

