-- ==== Sys2Proof/Machine/Ops.lean ====
section
/-!
DEFINITION. The named operations over registers and memory: register reads and writes, raising an exception
(spec/60_exceptions.md R200, R214, R215), the data read `MemRead` (spec/20_memory.md R61 to R68, R74, R76,
spec/60_exceptions.md R208), INIT (spec/10_state.md R46) and the launch premises (spec/70_reset_and_hazards.md R251).
-/
namespace Sys2Proof.Machine

/-! ## Registers -/

/-- `V[n]` (R25). -/
def State.vreg (s : State) (n : VReg) : ZmmValue := s.v[n.toNat]'n.isLt

/-- `V[n] <- x`. -/
def State.setVreg (s : State) (n : VReg) (x : ZmmValue) : State := { s with v := s.v.set n.toNat x n.isLt }

/-- `K[n]` (R30). -/
def State.kreg (s : State) (n : KReg) : BitVec 64 := s.k[n.toNat]'n.isLt

/-- `x[n]` (R37). -/
def State.greg (s : State) (n : Gpr) : Quad := s.gpr[n.toNat]'n.isLt

/-- Write MXCSR. -/
def State.setMxcsr (s : State) (m : BitVec 32) : State := { s with mxcsr := m }

/-- `pc <- pc + len`, modulo 2^64 (R36). -/
def State.advance (s : State) (len : Nat) : State := { s with rip := s.rip + BitVec.ofNat 64 len }

/-- The three views of a vector register (R26). -/
def State.xmm (s : State) (n : VReg) : BitVec 128 := (s.vreg n).extractLsb' 0 128
def State.ymm (s : State) (n : VReg) : BitVec 256 := (s.vreg n).extractLsb' 0 256
def State.zmm (s : State) (n : VReg) : BitVec 512 := s.vreg n

/-! ## Exceptions (R200, R214, R215) -/

/-- The vector number (R200). -/
def Exception.vector : Exception → Nat
  | .invalidOpcode => 6
  | .deviceNotAvailable => 7
  | .stackFault => 12
  | .generalProtection => 13
  | .pageFault _ _ => 14
  | .alignmentCheck => 17
  | .simdFloatingPoint => 19

/-- The error codes of R200. -/
inductive ErrorCode where
  | zero
  | pageFault (c : PageFaultCode)
  deriving DecidableEq, Repr

/-- The error code an exception carries (R200); none for #UD, #NM and #XM. -/
def Exception.errorCode : Exception → Option ErrorCode
  | .stackFault => some .zero
  | .generalProtection => some .zero
  | .alignmentCheck => some .zero
  | .pageFault c _ => some (.pageFault c)
  | _ => none

/-- The exception a step's fault reports. -/
def Fault.exception : Fault → Exception
  | .raised e _ => e

/-- The state at the moment of the fault (R215). -/
def Fault.state : Fault → State
  | .raised _ s => s

/-- TAKING AN EXCEPTION, as far as the spec describes it: the step ends in `Fault(vector, info)` with the state `s` of
R215, `pc` the address of the faulting instruction (R214). What the processor does next (R216) and the return from it
(R217) are out of scope by 00_scope.md R6: log 12. -/
def raise (e : Exception) (s : State) : Result := .fault (.raised e s)

/-- The exception for an unmasked Invalid or Denormal (R184, R209). -/
def State.simdException (s : State) : Exception :=
  if s.osxmmexcpt then .simdFloatingPoint else .invalidOpcode

/-! ## Linear addresses (R74) -/

/-- Canonical: bits 63:47 (48-bit linear addresses) or bits 63:56 (57-bit) are all equal. -/
def canonical (w : LinearWidth) (a : Quad) : Bool :=
  match w with
  | .la48 => a.extractLsb' 47 17 == 0 || a.extractLsb' 47 17 == BitVec.allOnes 17
  | .la57 => a.extractLsb' 56 8 == 0 || a.extractLsb' 56 8 == BitVec.allOnes 8

/-- The size of one canonical half. -/
def halfSize : LinearWidth → Nat
  | .la48 => 2 ^ 47
  | .la57 => 2 ^ 56

/-- `pc .. pc + len` lies wholly inside the lower or the upper canonical half (R36, decision D27). -/
def inOneHalf (w : LinearWidth) (pc : Quad) (len : Nat) : Bool :=
  decide (pc.toNat + len < halfSize w) ||
    (decide (2 ^ 64 - halfSize w ≤ pc.toNat) && decide (pc.toNat + len < 2 ^ 64))

/-- Is an address in a region? -/
def Region.contains (r : Region) (a : Quad) : Bool := r.first.ule a && a.ule r.last

/-- Does an address lie in a region of a kind? -/
def State.inRegion (s : State) (kind : RegionKind) (a : Quad) : Bool :=
  s.regions.any (fun r => r.kind == kind && r.contains a)

/-! ## The data read (R61, R66, R76, R208) -/

/-- Is the CPL 3 (R43, R65)? -/
def State.user (s : State) : Bool := s.cpl == 3

/-- Does page protection keep the current CPL from an address (R43, R221)? -/
def State.forbidden (s : State) (a : Quad) : Bool := s.user && s.inRegion .supervisor a

/-- The byte a data read gets at an address; none where translation or permission fails. -/
def State.readByte (s : State) (a : Quad) : Option Byte :=
  if s.forbidden a then none else Memory.read s.mem a.toNat

/-- The addresses of an operand of `n` bytes at `ea`, modulo 2^64 (R62). -/
def operandBytes (ea : Quad) (n : Nat) : List Quad := (List.range n).map (fun i => ea + BitVec.ofNat 64 i)

/-- The operand bytes that cannot be read. -/
def State.unreadable (s : State) (ea : Quad) (n : Nat) : List Quad :=
  (operandBytes ea n).filter (fun a => (s.readByte a).isNone)

/-- Alignment checking is enabled (R65): CR0.AM = 1, RFLAGS.AC = 1, CPL = 3. -/
def State.alignmentChecking (s : State) : Bool := s.cr0AM && s.flagAC && s.user

/-- Is #AC raised for an operand (R65, R206, R207)? For one of more than 8 bytes the answer is a free value (log 10). -/
def State.misaligned (s : State) (ea : Quad) (n : Nat) : Bool :=
  s.alignmentChecking && decide (ea.toNat % n ≠ 0) &&
    (decide (n ≤ 8) || Config.wideAlignCheck s.rip ea n)

/-- The page-fault code of a data read (R208): write and instruction-fetch bits 0. -/
def State.pageFaultCode (s : State) (a : Quad) : PageFaultCode :=
  { present := (Memory.read s.mem a.toNat).isSome, write := false, user := s.user, fetch := false }

/-- The #PF for a non-empty list of unreadable bytes: it reports the address of one of them, a free choice (R208, U10). -/
def State.pageFaultAt (s : State) (ea : Quad) (n : Nat) (bad : List Quad) : Exception :=
  let a := bad.getD (Config.pageFaultPick s.rip ea n % bad.length) ea
  .pageFault (s.pageFaultCode a) a

/-- What a read of an operand gives. -/
inductive Access (α : Type) where
  | ok (x : α)
  | fault (e : Exception)
  | refused (r : Refusal)
  deriving DecidableEq, Repr

/-- The #PF and #AC of an operand whose bytes are canonical: in which order they are reported when both hold is a free
value (R212). -/
def State.protection (s : State) (ea : Quad) (n : Nat) : Option Exception :=
  match s.unreadable ea n, s.misaligned ea n with
  | [], false => none
  | [], true => some .alignmentCheck
  | a :: bad, false => some (s.pageFaultAt ea n (a :: bad))
  | a :: bad, true =>
    some (if Config.alignBeforePage s.rip ea n then .alignmentCheck else s.pageFaultAt ea n (a :: bad))

/-- `MemRead(ea, n)` (R13, R76): one data read of `n` bytes at linear address `ea`, little-endian. `stack` says whether
the access is SS-relative, which decides the fault of a non-canonical address (R74). The order is R212's: non-canonical,
then #PF and #AC; a device or a breakpoint is refused before the bytes are looked at (R68, R225; log 30). -/
def State.memRead (s : State) (stack : Bool) (ea : Quad) (n : Nat) : Access Nat :=
  if (operandBytes ea n).any (fun a => !canonical s.proc.linear a) then
    .fault (if stack then .stackFault else .generalProtection)
  else if (operandBytes ea n).any (s.inRegion .sideEffects) then .refused .readSideEffects
  else if (operandBytes ea n).any (fun a => s.breakpoints.contains a) then .refused .dataBreakpoint
  else
    match s.protection ea n with
    | some e => .fault e
    | none => .ok (littleEndian ((operandBytes ea n).map (fun a => (s.readByte a).getD 0)))

/-! ## INIT and launch -/

/-- The state after INIT (R46, third column): vector registers, opmask registers and MXCSR unchanged, CR0 keeps CD and
NW (bits 30 and 29, PRESUMED: log 23), the rest as after RESET. What the table does not list (memory, the address map,
breakpoints, the processor's parameters) is unchanged. -/
def State.afterInit (s : State) : State :=
  { State.reset with
    v := s.v, k := s.k, mxcsr := s.mxcsr
    cr0 := (State.reset.cr0 &&& ~~~(0x60000000 : Quad)) ||| (s.cr0 &&& 0x60000000)
    fsBase := s.fsBase, gsBase := s.gsBase, cr2 := s.cr2
    mem := s.mem, regions := s.regions, breakpoints := s.breakpoints, proc := s.proc }

/-- The launch premises P1, P3 to P7 and P10 of R251 made true: what an operating system has set up before the rules
of 40_cvtps2pd.md describe the processor. Nothing else changes (log 1). -/
def State.launch (s : State) : State :=
  { s with
    mode := .mode64
    cr0 := s.cr0 &&& ~~~(0xC : Quad)
    cr4 := s.cr4 ||| 0x40600
    xcr0 := s.xcr0 ||| 0xE6
    rflags := s.rflags &&& ~~~(0x100 : Quad)
    breakpoints := [] }

/-- The linear address of the next instruction: RIP in 64-bit mode, where CS.base is treated as zero (R35, R38);
CS.base + RIP elsewhere (R46: the first fetch after RESET is at FFFFFFF0H). -/
def State.fetchAddress (s : State) : Quad :=
  if s.mode = .mode64 then s.rip else s.csBase + s.rip

end Sys2Proof.Machine
end

