-- ==== Sys2Proof/Machine/Operands.lean ====
section
/-!
DEFINITION. The six forms and the operand forms: vector length, feature flags, effective address and source value
(spec/00_scope.md R2, R8; spec/20_memory.md R63, R64, R69 to R74; spec/40_cvtps2pd.md R147, R148).
-/
namespace Sys2Proof.Machine

/-- The six encoded forms (R1, R2). -/
inductive Form where
  | legacy
  | vex128
  | vex256
  | evex128
  | evex256
  | evex512
  deriving DecidableEq, Repr

/-- `VL` (R8). -/
def Form.vl : Form → Nat
  | .legacy => 128
  | .vex128 => 128
  | .vex256 => 256
  | .evex128 => 128
  | .evex256 => 256
  | .evex512 => 512

/-- `KL = VL / 64`, the number of elements (R8). -/
def Form.kl (f : Form) : Nat := f.vl / 64

/-- Is the form EVEX-encoded? -/
def Form.isEvex : Form → Bool
  | .evex128 | .evex256 | .evex512 => true
  | _ => false

/-- Is the form VEX-encoded? -/
def Form.isVex : Form → Bool
  | .vex128 | .vex256 => true
  | _ => false

/-- The CPUID feature flags of a form, all of which must be set (R2; 90_conflicts.md C1 for EVEX.256). -/
def Form.features : Form → List Feature
  | .legacy => [.sse2]
  | .vex128 => [.avx]
  | .vex256 => [.avx]
  | .evex128 => [.avx512vl, .avx512f]
  | .evex256 => [.avx512vl, .avx512f]
  | .evex512 => [.avx512f]

/-- Is a flag in the set `Features`? -/
def hasFeature (fs : Features) : Feature → Bool
  | .sse2 => fs.sse2
  | .avx => fs.avx
  | .avx512f => fs.avx512f
  | .avx512vl => fs.avx512vl

/-- The decoded fields the shared step of R140 works on. For LEGACY and VEX, `aaa`, `z` and `b` are 0; for LEGACY,
which has no `vvvv`, the field is 1111b. -/
structure Operation where
  form : Form
  pre : Prefixes
  vvvv : BitVec 4
  aaa : KReg
  z : Bool
  b : Bool
  dst : VReg
  src : Rm
  len : Nat
  deriving DecidableEq, Repr

/-- The broadcast operand `m32bcst`: `b = 1` with a memory source (R64, R107). -/
def Operation.broadcast (c : Operation) : Bool := c.b && !c.src.isReg

/-- `{sae}`: `b = 1` with a register source (R107, R181). -/
def Operation.sae (c : Operation) : Bool := c.b && c.src.isReg

/-- How many bytes a memory source has (R63): `VL / 16`, or 4 for a broadcast. -/
def Operation.memBytes (c : Operation) : Nat := if c.broadcast then 4 else c.form.vl / 16

/-- The scale `N` of an 8-bit displacement (R72): the number of bytes read in the EVEX forms, 1 elsewhere. -/
def Operation.dispScale (c : Operation) : Nat := if c.form.isEvex then c.memBytes else 1

/-! ## Effective address (R69 to R74) -/

/-- A displacement, sign-extended, the 8-bit one multiplied by `N` (R69, R72). -/
def dispValue (n : Nat) : Disp → Quad
  | .none => 0
  | .disp8 d => d.signExtend 64 * BitVec.ofNat 64 n
  | .disp32 d => d.signExtend 64

/-- A general register as the address computation reads it: its low 32 bits under a `67` prefix (R73). -/
def State.addrReg (s : State) (addr32 : Bool) (r : Gpr) : Quad :=
  if addr32 then ((s.greg r).setWidth 32).setWidth 64 else s.greg r

/-- The index part `x[idx] * 2^scale`; an index of 0100b is no index (R70). -/
def State.indexPart (s : State) (addr32 : Bool) (scale : BitVec 2) (index : Gpr) : Quad :=
  if index = 4 then 0 else s.addrReg addr32 index * BitVec.ofNat 64 (2 ^ scale.toNat)

/-- The sum of R69 before truncation. `len` is the instruction's length, for RIP-relative addressing (R71). -/
def State.addressSum (s : State) (addr32 : Bool) (n len : Nat) : MemForm → Quad
  | .ripRel d => s.rip + BitVec.ofNat 64 len + d.signExtend 64
  | .base b d => s.addrReg addr32 b + dispValue n d
  | .sib sc i b d => s.addrReg addr32 b + s.indexPart addr32 sc i + dispValue n d
  | .sibNoBase sc i d => s.indexPart addr32 sc i + d.signExtend 64

/-- The offset: modulo 2^32 and zero-extended under a `67` prefix (R71, R73). -/
def State.offset (s : State) (addr32 : Bool) (n len : Nat) (m : MemForm) : Quad :=
  if addr32 then ((s.addressSum addr32 n len m).setWidth 32).setWidth 64 else s.addressSum addr32 n len m

/-- The segment base: FS.base or GS.base under their overrides, zero otherwise (R38, R74). -/
def State.segBase (s : State) : Option Segment → Quad
  | some .fs => s.fsBase
  | some .gs => s.gsBase
  | _ => 0

/-- The linear address of the memory source (R69, R74). -/
def State.linearAddress (s : State) (c : Operation) (m : MemForm) : Quad :=
  s.segBase c.pre.seg + s.offset c.pre.addr32 c.dispScale c.len m

/-- Is the default segment of a memory operand SS: a base register RSP or RBP, not R12 or R13 (R74)? -/
def defaultsToSS : MemForm → Bool
  | .base b _ => b == 5
  | .sib _ _ b _ => b == 4 || b == 5
  | _ => false

/-- Is the access SS-relative? An FS or GS override takes it elsewhere; the other overrides have no effect (R74; that
this holds for the kind of fault too is DEDUCED: log 16). -/
def Operation.stackAccess (c : Operation) (m : MemForm) : Bool :=
  match c.pre.seg with
  | some .fs => false
  | some .gs => false
  | _ => defaultsToSS m

/-! ## The source value (R147) -/

/-- `B ++ B ++ ... ++ B`, `kl` copies (R64). -/
def broadcastWord (kl : Nat) (w : Single) : SrcValue := (BitVec.replicate kl w).setWidth 256

/-- The low `VL/2` bits of the source register (R28, R147). -/
def State.regSource (s : State) (f : Form) (n : VReg) : SrcValue := ((s.vreg n).setWidth (f.vl / 2)).setWidth 256

/-- The value of bytes read from memory as `SRC` (R62, R64). -/
def Operation.memValue (c : Operation) (bytes : Nat) : SrcValue :=
  if c.broadcast then broadcastWord c.form.kl (BitVec.ofNat 32 bytes) else BitVec.ofNat 256 bytes

/-- `SRC`, read in full before anything is written, whatever the mask (R66, R147, R149). -/
def State.readSource (s : State) (c : Operation) : Access SrcValue :=
  match c.src with
  | .reg n => .ok (s.regSource c.form n)
  | .mem m =>
    match s.memRead (c.stackAccess m) (s.linearAddress c m) c.memBytes with
    | .ok bytes => .ok (c.memValue bytes)
    | .fault e => .fault e
    | .refused r => .refused r

/-- Element `j` of the source, `SRC[32j+31:32j]` (R147). -/
def srcLane (src : SrcValue) (j : Nat) : Single := src.extractLsb' (32 * j) 32

/-- Element activity (R32, R118, R148): every element without a writemask, otherwise bit `j` of `K[aaa]`. -/
def State.active (s : State) (c : Operation) (j : Nat) : Bool :=
  if c.aaa = 0 then true else (s.kreg c.aaa).getLsbD j

end Sys2Proof.Machine
end

