-- ==== Sys2Proof/Machine/Convert.lean ====
section
/-!
DEFINITION. The step every form shares (spec/40_cvtps2pd.md R140), with the class check (spec/60_exceptions.md R201,
R203 to R205) and the destination (R148, R150, R152).
-/
namespace Sys2Proof.Machine

/-! ## Faults before the operand is read (R140 lines 1 and 2, R212) -/

/-- The enabling conditions of R204 that end in `#UD`. -/
def State.stateForbids (s : State) (f : Form) : Bool :=
  match f with
  | .legacy => s.cr0EM || !s.osfxsr
  | .vex128 | .vex256 =>
    !s.osxsave || s.xcr0Avx != 3 || s.mode == .realAddress || s.mode == .virtual8086
  | .evex128 | .evex256 | .evex512 =>
    !s.osxsave || s.xcr0Avx != 3 || s.xcr0Avx512 != 7 || s.mode == .realAddress || s.mode == .virtual8086

/-- Are all feature flags of a form set (R2, R203)? -/
def State.featuresPresent (s : State) (f : Form) : Bool := f.features.all (hasFeature s.proc.features)

/-- `ClassCheck`: `#UD` on a missing feature or a state that forbids the form, then `#NM` (R203, R204, R205, R212). The
spec leaves ClassCheck a parameter; the model takes the rows of R204 and R205 (log 11). -/
def State.classCheck (s : State) (f : Form) : Option Exception :=
  if !s.featuresPresent f || s.stateForbids f then some .invalidOpcode
  else if s.cr0TS then some .deviceNotAvailable
  else none

/-- Field values that no encoding of a row has (R123, R125). The decoder refuses their bytes; a term of `Instr` that
holds them has no meaning either. -/
def Operation.reserved (c : Operation) : Option DecodeRefusal :=
  if c.z && c.aaa == 0 then some .zeroingWithoutMask
  else if c.sae && c.form != .evex512 then some .saeVectorLength
  else none

/-! ## Elements, flags, destination (R140 lines 4 to 10) -/

/-- The conversion of source element `j` under the state's DAZ (R140 line 5). -/
def State.convertLane (s : State) (src : SrcValue) (j : Nat) : CvtResult := cvtS2D (srcLane src j) s.daz

/-- `IE_any` and `DE_any` over the active elements; none under `{sae}` (R140 line 6, R181, R182, R183). -/
def State.signals (s : State) (c : Operation) (src : SrcValue) : Signals :=
  { ie := !c.sae && (List.range c.form.kl).any (fun j => s.active c j && (s.convertLane src j).ie)
    de := !c.sae && (List.range c.form.kl).any (fun j => s.active c j && (s.convertLane src j).de) }

/-- Element `j` of a vector register value, bits `64j+63 : 64j`. -/
def lane (x : ZmmValue) (j : Nat) : Double := x.extractLsb' (64 * j) 64

/-- Write bits `64j+63 : 64j` and keep the others. -/
def setLane (x : ZmmValue) (j : Nat) (d : Double) : ZmmValue :=
  (x &&& ~~~((BitVec.allOnes 64).setWidth 512 <<< (64 * j))) ||| (d.setWidth 512 <<< (64 * j))

/-- The new value of destination element `j` (R140 line 9). -/
def State.destLane (s : State) (c : Operation) (src : SrcValue) (j : Nat) : Double :=
  if s.active c j then (s.convertLane src j).d
  else if c.z then 0
  else lane (s.vreg c.dst) j

/-- The old destination with the bits above `VL` as the form leaves them: kept by LEGACY, zeroed by the others
(R140 line 10, R152). -/
def State.destBase (s : State) (c : Operation) : ZmmValue :=
  if c.form = .legacy then s.vreg c.dst else ((s.vreg c.dst).setWidth c.form.vl).setWidth 512

/-- The new value of the destination register (R140 lines 9 and 10). -/
def State.destValue (s : State) (c : Operation) (src : SrcValue) : ZmmValue :=
  (List.range c.form.kl).foldl (fun x j => setLane x j (s.destLane c src j)) (s.destBase c)

/-- Lines 4 to 11 of R140, the source value known: the flags are set, then an unmasked exception faults with the
destination and `pc` unchanged (R184, R215), or the destination is written and `pc` advances. -/
def State.finish (s : State) (c : Operation) (src : SrcValue) : Result :=
  let sig := s.signals c src
  let flagged := s.setMxcsr (recordSignals sig s.mxcsr)
  if unmasked sig s.mxcsr then raise s.simdException flagged
  else .next ((flagged.setVreg c.dst (s.destValue c src)).advance c.len)

/-- The shared step (R140), its faults in the order of R212: `#UD` on the stored `vvvv`, then the class check, then the
memory source, then the numeric exceptions. DESIGN CHOICE (log 31): where the operand holds a data breakpoint (R225) or lies
in a device region (R68), `#UD` and `#NM` come before the refusal, which is made only when the read is reached. -/
def convertPacked (c : Operation) (s : State) : Result :=
  if c.vvvv ≠ 15 then raise .invalidOpcode s
  else
    match c.reserved with
    | some r => .refused (.decode r)
    | none =>
      match s.classCheck c.form with
      | some e => raise e s
      | none =>
        match s.readSource c with
        | .ok src => s.finish c src
        | .fault e => raise e s
        | .refused r => .refused r

end Sys2Proof.Machine
end

