-- ==== Sys2Proof/Machine/Evex.lean ====
section
/-!
DEFINITION. The meanings of the EVEX forms of VCVTPS2PD: writemask, zeroing, broadcast and `sae`
(spec/40_cvtps2pd.md R144, R145, R146).
-/
namespace Sys2Proof.Machine

/-- The fields of an EVEX form (R144 to R146). -/
def opEvex (f : Form) (p : Prefixes) (vvvv : BitVec 4) (aaa : KReg) (z b : Bool) (dst : VReg) (src : Rm) (len : Nat) :
    Operation :=
  { form := f, pre := p, vvvv := vvvv, aaa := aaa, z := z, b := b, dst := dst, src := src, len := len }

/-- VCVTPS2PD xmm1 with writemask, xmm2/m64/m32bcst (R144). -/
def execVcvtps2pd128Evex (p : Prefixes) (vvvv : BitVec 4) (aaa : KReg) (z b : Bool) (dst : VReg) (src : Rm) (s : State) :
    Result :=
  convertPacked (opEvex .evex128 p vvvv aaa z b dst src (Instr.vcvtps2pd128Evex p vvvv aaa z b dst src).length) s

/-- VCVTPS2PD ymm1 with writemask, xmm2/m128/m32bcst (R145). -/
def execVcvtps2pd256Evex (p : Prefixes) (vvvv : BitVec 4) (aaa : KReg) (z b : Bool) (dst : VReg) (src : Rm) (s : State) :
    Result :=
  convertPacked (opEvex .evex256 p vvvv aaa z b dst src (Instr.vcvtps2pd256Evex p vvvv aaa z b dst src).length) s

/-- VCVTPS2PD zmm1 with writemask, ymm2/m256/m32bcst or ymm2 with sae (R146). -/
def execVcvtps2pd512Evex (p : Prefixes) (vvvv : BitVec 4) (aaa : KReg) (z b : Bool) (dst : VReg) (src : Rm) (s : State) :
    Result :=
  convertPacked (opEvex .evex512 p vvvv aaa z b dst src (Instr.vcvtps2pd512Evex p vvvv aaa z b dst src).length) s

end Sys2Proof.Machine
end

