-- ==== Sys2Proof/Machine/Legacy.lean ====
section
/-!
DEFINITION. The meaning of CVTPS2PD, the 128-bit legacy SSE form (spec/40_cvtps2pd.md R141).
-/
namespace Sys2Proof.Machine

/-- The fields of LEGACY: two elements, no mask, no `vvvv` (R141). -/
def opLegacy (p : Prefixes) (rex : Bool) (dst : VReg) (src : Rm) : Operation :=
  { form := .legacy, pre := p, vvvv := 15, aaa := 0, z := false, b := false, dst := dst, src := src
    len := (Instr.cvtps2pd p rex dst src).length }

/-- CVTPS2PD xmm1, xmm2/m64 (R141). -/
def execCvtps2pd (p : Prefixes) (rex : Bool) (dst : VReg) (src : Rm) (s : State) : Result :=
  convertPacked (opLegacy p rex dst src) s

end Sys2Proof.Machine
end

