-- ==== Sys2Proof/Machine/Vex.lean ====
section
/-!
DEFINITION. The meanings of the VEX forms of VCVTPS2PD (spec/40_cvtps2pd.md R142, R143), each in its two spellings
(spec/30_encoding.md R99).
-/
namespace Sys2Proof.Machine

/-- The fields of a VEX form: no mask (R142, R143). -/
def opVex (f : Form) (p : Prefixes) (vvvv : BitVec 4) (dst : VReg) (src : Rm) (len : Nat) : Operation :=
  { form := f, pre := p, vvvv := vvvv, aaa := 0, z := false, b := false, dst := dst, src := src, len := len }

/-- VCVTPS2PD xmm1, xmm2/m64, two-byte prefix (R142). -/
def execVcvtps2pd128Vex2 (p : Prefixes) (vvvv : BitVec 4) (dst : VReg) (src : Rm) (s : State) : Result :=
  convertPacked (opVex .vex128 p vvvv dst src (Instr.vcvtps2pd128Vex2 p vvvv dst src).length) s

/-- VCVTPS2PD ymm1, xmm2/m128, two-byte prefix (R143). -/
def execVcvtps2pd256Vex2 (p : Prefixes) (vvvv : BitVec 4) (dst : VReg) (src : Rm) (s : State) : Result :=
  convertPacked (opVex .vex256 p vvvv dst src (Instr.vcvtps2pd256Vex2 p vvvv dst src).length) s

/-- VCVTPS2PD xmm1, xmm2/m64, three-byte prefix (R142). -/
def execVcvtps2pd128Vex3 (p : Prefixes) (vvvv : BitVec 4) (dst : VReg) (src : Rm) (s : State) : Result :=
  convertPacked (opVex .vex128 p vvvv dst src (Instr.vcvtps2pd128Vex3 p vvvv dst src).length) s

/-- VCVTPS2PD ymm1, xmm2/m128, three-byte prefix (R143). -/
def execVcvtps2pd256Vex3 (p : Prefixes) (vvvv : BitVec 4) (dst : VReg) (src : Rm) (s : State) : Result :=
  convertPacked (opVex .vex256 p vvvv dst src (Instr.vcvtps2pd256Vex3 p vvvv dst src).length) s

end Sys2Proof.Machine
end

