-- ==== Sys2Proof/Machine/Dispatch.lean ====
section
/-!
DEFINITION. What each instruction does, one arm per constructor.
-/
namespace Sys2Proof.Machine

/-- The effect of one decoded instruction (spec/40_cvtps2pd.md R140). -/
def exec (i : Instr) (s : State) : Host.Outcome State Fault Refusal :=
  match i with
  | .cvtps2pd p rex dst src => Sys2Proof.Machine.execCvtps2pd p rex dst src s
  | .vcvtps2pd128Vex2 p vvvv dst src => Sys2Proof.Machine.execVcvtps2pd128Vex2 p vvvv dst src s
  | .vcvtps2pd256Vex2 p vvvv dst src => Sys2Proof.Machine.execVcvtps2pd256Vex2 p vvvv dst src s
  | .vcvtps2pd128Vex3 p vvvv dst src => Sys2Proof.Machine.execVcvtps2pd128Vex3 p vvvv dst src s
  | .vcvtps2pd256Vex3 p vvvv dst src => Sys2Proof.Machine.execVcvtps2pd256Vex3 p vvvv dst src s
  | .vcvtps2pd128Evex p vvvv aaa z b dst src => Sys2Proof.Machine.execVcvtps2pd128Evex p vvvv aaa z b dst src s
  | .vcvtps2pd256Evex p vvvv aaa z b dst src => Sys2Proof.Machine.execVcvtps2pd256Evex p vvvv aaa z b dst src s
  | .vcvtps2pd512Evex p vvvv aaa z b dst src => Sys2Proof.Machine.execVcvtps2pd512Evex p vvvv aaa z b dst src s

end Sys2Proof.Machine
end

