-- ==== Sys2Proof/Machine/Fetch.lean ====
section
/-!
DEFINITION. Fetching and decoding the instruction at `pc`, with the launch conditions of spec/10_state.md R36,
spec/60_exceptions.md R225 and spec/70_reset_and_hazards.md R251, and placing an instruction for the host.
-/
namespace Sys2Proof.Machine

/-- What the fetch finds at `pc`. -/
inductive Fetched where
  /-- an instruction to execute -/
  | run (i : Instr)
  /-- bytes that raise `#UD` while decoding (R135 step 5) -/
  | invalidOpcode
  /-- no meaning -/
  | refuse (r : Refusal)
  deriving DecidableEq, Repr

/-- The readable bytes at `pc`, at most the longest instruction (R80, R115; log 21). -/
def State.fetchBytes (s : State) : List Byte := Memory.readPrefix s.mem s.fetchAddress Config.maxInstrBytes

/-- Decode the bytes at `pc` and hold the instruction against its canonical half (R36, R135). -/
def State.decodeAt (s : State) : Fetched :=
  match decode s.proc.saeLL s.fetchBytes with
  | .truncated => .refuse .codeUnreadable
  | .refuse r => .refuse (.decode r)
  | .invalidOpcode len =>
    if inOneHalf s.proc.linear s.rip len then .invalidOpcode else .refuse .pcOutsideCanonicalHalf
  | .instr i _ =>
    if inOneHalf s.proc.linear s.rip i.length then .run i else .refuse .pcOutsideCanonicalHalf

/-- Fetch and decode under the launch conditions: 64-bit mode (R3), no single-step and no breakpoint on the
instruction (R225), `pc` canonical (R36). The refusals that need no length come before decoding (log 31). -/
def State.fetchDecode (s : State) : Fetched :=
  if s.mode ≠ .mode64 then .refuse .modeNotAdmitted
  else if s.flagTF then .refuse .singleStep
  else if s.breakpoints.contains s.rip then .refuse .instructionBreakpoint
  else s.decodeAt

/-- The launch of one instruction: the premises of R251 (`State.launch`), and the instruction's bytes at the fetch
address, the bits above `nbits` zero (log 1). -/
def State.placeWord (s : State) (nbits w : Nat) : State :=
  { s.launch with mem := Memory.writeBytes s.mem s.launch.fetchAddress (wordBytes nbits w) }

end Sys2Proof.Machine
end

