-- ==== Sys2Proof/Machine/Step.lean ====
section
/-!
DEFINITION. One step: fetch, decode, execute (spec/00_scope.md R18, spec/40_cvtps2pd.md R140).
-/
namespace Sys2Proof.Machine

/-- One step of the logical processor (R16, R18). -/
def step (s : State) : Host.Outcome State Fault Refusal :=
  match s.fetchDecode with
  | .run i => exec i s
  | .invalidOpcode => raise .invalidOpcode s
  | .refuse r => .refused r

/-- `s` launched with an instruction at its fetch address, so that the next step fetches and runs exactly it (log 1). -/
def State.withFetchWord (s : State) (nbits w : Nat) : State := s.placeWord nbits w

end Sys2Proof.Machine
end

