-- ==== Sys2Proof/Machine/Asm.lean ====
section
/-!
DEFINITION. Two views of an instruction that no step reads: its operands as the assembler syntax writes them
(spec/30_encoding.md R130, R131, R132) and the intrinsics that map to it (R136).
-/
namespace Sys2Proof.Machine

/-- The decoded fields of any instruction: what its meaning gives the shared step. -/
def operationOf : Instr → Operation
  | .cvtps2pd p rex dst src => opLegacy p rex dst src
  | .vcvtps2pd128Vex2 p v dst src => opVex .vex128 p v dst src (Instr.vcvtps2pd128Vex2 p v dst src).length
  | .vcvtps2pd256Vex2 p v dst src => opVex .vex256 p v dst src (Instr.vcvtps2pd256Vex2 p v dst src).length
  | .vcvtps2pd128Vex3 p v dst src => opVex .vex128 p v dst src (Instr.vcvtps2pd128Vex3 p v dst src).length
  | .vcvtps2pd256Vex3 p v dst src => opVex .vex256 p v dst src (Instr.vcvtps2pd256Vex3 p v dst src).length
  | .vcvtps2pd128Evex p v a z b dst src =>
    opEvex .evex128 p v a z b dst src (Instr.vcvtps2pd128Evex p v a z b dst src).length
  | .vcvtps2pd256Evex p v a z b dst src =>
    opEvex .evex256 p v a z b dst src (Instr.vcvtps2pd256Evex p v a z b dst src).length
  | .vcvtps2pd512Evex p v a z b dst src =>
    opEvex .evex512 p v a z b dst src (Instr.vcvtps2pd512Evex p v a z b dst src).length

/-- The two mnemonics (R130). -/
inductive Mnemonic where
  | cvtps2pd
  | vcvtps2pd
  deriving DecidableEq, Repr

/-- The class of a register operand: which view of a vector register it names (R26, R130). -/
inductive RegClass where
  | xmm
  | ymm
  | zmm
  deriving DecidableEq, Repr

/-- The operand size keywords of a memory source (R132). -/
inductive SizeKeyword where
  /-- m64 -/
  | qwordPtr
  /-- m128 -/
  | xmmwordPtr
  /-- m256 -/
  | ymmwordPtr
  /-- m32bcst, with the factor written after it (R131) -/
  | dwordPtrTo (factor : Nat)
  deriving DecidableEq, Repr

/-- The source operand as written. -/
inductive AsmSource where
  | reg (cls : RegClass) (n : VReg) (sae : Bool)
  | mem (size : SizeKeyword) (m : MemForm)
  deriving DecidableEq, Repr

/-- An instruction as written: mnemonic, destination with its decorations, source. -/
structure AsmText where
  mnemonic : Mnemonic
  dstClass : RegClass
  dst : VReg
  /-- the writemask decoration; none for `aaa = 000b` (R131) -/
  mask : Option KReg
  /-- the zeroing decoration -/
  zeroing : Bool
  source : AsmSource
  deriving DecidableEq, Repr

/-- The register class of a width in bits. -/
def classOfBits (bits : Nat) : RegClass := if bits ≤ 128 then .xmm else if bits ≤ 256 then .ymm else .zmm

/-- The size keyword of a full memory operand of `bytes` bytes (R132). -/
def sizeOfBytes (bytes : Nat) : SizeKeyword :=
  if bytes ≤ 8 then .qwordPtr else if bytes ≤ 16 then .xmmwordPtr else .ymmwordPtr

/-- The assembler view of the decoded fields (R130 to R132). -/
def asmOf (c : Operation) : AsmText :=
  { mnemonic := if c.form = .legacy then .cvtps2pd else .vcvtps2pd
    dstClass := classOfBits c.form.vl
    dst := c.dst
    mask := if c.aaa = 0 then none else some c.aaa
    zeroing := c.z
    source :=
      match c.src with
      | .reg n => .reg (classOfBits (c.form.vl / 2)) n c.sae
      | .mem m => .mem (if c.broadcast then .dwordPtrTo c.form.kl else sizeOfBytes c.memBytes) m }

/-- The assembler view of an instruction. -/
def asmView (i : Instr) : AsmText := asmOf (operationOf i)

/-- The twelve intrinsics of R136, by their names. -/
inductive Intrinsic where
  | mm512CvtpsPd
  | mm512MaskCvtpsPd
  | mm512MaskzCvtpsPd
  | mm512CvtRoundpsPd
  | mm512MaskCvtRoundpsPd
  | mm512MaskzCvtRoundpsPd
  | mm256MaskCvtpsPd
  | mm256MaskzCvtpsPd
  | mmMaskCvtpsPd
  | mmMaskzCvtpsPd
  | mm256CvtpsPd
  | mmCvtpsPd
  deriving DecidableEq, Repr

/-- The masking column of R136. -/
inductive IntrinsicMask where
  | none
  | merging
  | zeroing
  deriving DecidableEq, Repr

/-- The form an intrinsic maps to, its masking, and whether it takes an `int sae` argument (R136). -/
def Intrinsic.target : Intrinsic → Form × IntrinsicMask × Bool
  | .mm512CvtpsPd => (.evex512, .none, false)
  | .mm512MaskCvtpsPd => (.evex512, .merging, false)
  | .mm512MaskzCvtpsPd => (.evex512, .zeroing, false)
  | .mm512CvtRoundpsPd => (.evex512, .none, true)
  | .mm512MaskCvtRoundpsPd => (.evex512, .merging, true)
  | .mm512MaskzCvtRoundpsPd => (.evex512, .zeroing, true)
  | .mm256MaskCvtpsPd => (.evex256, .merging, false)
  | .mm256MaskzCvtpsPd => (.evex256, .zeroing, false)
  | .mmMaskCvtpsPd => (.evex128, .merging, false)
  | .mmMaskzCvtpsPd => (.evex128, .zeroing, false)
  | .mm256CvtpsPd => (.vex256, .none, false)
  | .mmCvtpsPd => (.legacy, .none, false)

end Sys2Proof.Machine
end

