-- ==== Sys2Proof/Safety.lean ====
section
/-!
DEFINITION. The terms that claims about the machine use: the launch premises (spec/70_reset_and_hazards.md R251), what
it is for an operand to be readable, what the elements of an instruction signal, the state an instruction leaves, and
the invariant of every step.
-/
namespace Sys2Proof.Machine

/-! ## Reading an outcome -/

/-- The next state, if the outcome is one. -/
def next? : Result → Option State
  | .next t => some t
  | _ => none

/-- The exception, if the outcome is a fault. -/
def exception? : Result → Option Exception
  | .fault f => some f.exception
  | _ => none

/-- The refusal, if the outcome is one. -/
def refusal? : Result → Option Refusal
  | .refused r => some r
  | _ => none

/-! ## When a form may run -/

/-- The premises P1 to P6 of R251 for a form: 64-bit mode, its features, its enabling bits, CR0.TS = 0. -/
def State.premises (s : State) (f : Form) : Prop :=
  s.mode = .mode64 ∧ (∀ x ∈ f.features, hasFeature s.proc.features x = true) ∧ s.cr0TS = false ∧
    (f = .legacy → s.cr0EM = false ∧ s.osfxsr = true) ∧
    (f ≠ .legacy → s.osxsave = true ∧ s.xcr0Avx = 3) ∧
    (f.isEvex = true → s.xcr0Avx512 = 7)

/-- The `n` bytes at `ea` are an ordinary readable operand: canonical, no device, no breakpoint, each byte present and
permitted, and aligned wherever alignment checking is on. -/
def State.readable (s : State) (ea : Quad) (n : Nat) : Prop :=
  (∀ i < n, canonical s.proc.linear (ea + BitVec.ofNat 64 i) = true ∧
    s.inRegion .sideEffects (ea + BitVec.ofNat 64 i) = false ∧
    ea + BitVec.ofNat 64 i ∉ s.breakpoints ∧
    (s.readByte (ea + BitVec.ofNat 64 i)).isSome = true) ∧
  (s.alignmentChecking = true → ea.toNat % n = 0)

/-! ## Elements and flags -/

/-- A byte of memory as a data read gets it (0 where it cannot be read). -/
def State.byteAt (s : State) (a : Quad) : Byte := (s.readByte a).getD 0

/-- The word at an address, little-endian (R61, R62). -/
def State.wordAt (s : State) (a : Quad) : Single :=
  s.byteAt (a + 3) ++ s.byteAt (a + 2) ++ s.byteAt (a + 1) ++ s.byteAt a

/-- Source element `j` of a vector register: bits `32j+31 : 32j` (R28). -/
def State.regWord (s : State) (n : VReg) (j : Nat) : Single := (s.vreg n).extractLsb' (32 * j) 32

/-- Source element `j` of a memory operand: the word at `ea + 4j` (R62). -/
def State.memWord (s : State) (ea : Quad) (j : Nat) : Single := s.wordAt (ea + BitVec.ofNat 64 (4 * j))

/-- Is element `j` active under `aaa` (R32, R148)? -/
def State.maskBit (s : State) (aaa : KReg) (j : Nat) : Bool := aaa == 0 || (s.kreg aaa).getLsbD j

/-- What `kl` elements signal together (R182): the OR over those that are active. -/
def elementSignals (kl : Nat) (on : Nat → Bool) (w : Nat → Single) (daz : Bool) : Signals :=
  { ie := (List.range kl).any (fun j => on j && (cvtS2D (w j) daz).ie)
    de := (List.range kl).any (fun j => on j && (cvtS2D (w j) daz).de) }

/-- Every signalled exception is masked (R184). -/
def allMasked (sig : Signals) (m : BitVec 32) : Prop :=
  (sig.ie = true → mxcsrBit m .im = true) ∧ (sig.de = true → mxcsrBit m .dm = true)

/-! ## What an instruction leaves -/

/-- The state after an instruction that completes: one vector register written, MXCSR with the signals ORed in, `pc`
past the instruction, and EVERYTHING ELSE as before (R40, R153). -/
def State.completed (s : State) (dst : VReg) (x : ZmmValue) (sig : Signals) (len : Nat) : State :=
  { s with v := s.v.set dst.toNat x dst.isLt, mxcsr := recordSignals sig s.mxcsr, rip := s.rip + BitVec.ofNat 64 len }

/-- Elements `j < kl` of a destination, each converted, kept from the old value, or zeroed (R140 line 9). -/
def lanesAre (kl : Nat) (on : Nat → Bool) (z : Bool) (w : Nat → Single) (daz : Bool) (old x : ZmmValue) : Prop :=
  ∀ j < kl, lane x j = if on j then (cvtS2D (w j) daz).d else if z then 0 else lane old j

/-- The bits `511 : VL` of a destination are zero (R152). -/
def upperZero (vl : Nat) (x : ZmmValue) : Prop := ∀ i, vl ≤ i → x.getLsbD i = false

/-- The bits `511 : VL` of a destination are those of the old value (R152, LEGACY). -/
def upperKept (vl : Nat) (old x : ZmmValue) : Prop := ∀ i, vl ≤ i → x.getLsbD i = old.getLsbD i

/-- The EVEX instruction of a form; the others have none. -/
def isEvexInstr (f : Form) (p : Prefixes) (vvvv : BitVec 4) (aaa : KReg) (z b : Bool) (dst : VReg) (src : Rm)
    (i : Instr) : Prop :=
  (f = .evex128 ∧ i = .vcvtps2pd128Evex p vvvv aaa z b dst src) ∨
  (f = .evex256 ∧ i = .vcvtps2pd256Evex p vvvv aaa z b dst src) ∨
  (f = .evex512 ∧ i = .vcvtps2pd512Evex p vvvv aaa z b dst src)

/-- The VEX instructions of a form: two spellings each (R99). -/
def isVexInstr (f : Form) (p : Prefixes) (vvvv : BitVec 4) (dst : VReg) (src : Rm) (i : Instr) : Prop :=
  (f = .vex128 ∧ (i = .vcvtps2pd128Vex2 p vvvv dst src ∨ i = .vcvtps2pd128Vex3 p vvvv dst src)) ∨
  (f = .vex256 ∧ (i = .vcvtps2pd256Vex2 p vvvv dst src ∨ i = .vcvtps2pd256Vex3 p vvvv dst src))

/-! ## The invariant of every step -/

/-- Memory in canonical form, the reserved bits of MXCSR zero (R33, R251 P8), the DAZ bit zero where the processor has
none (R33), and `pc` canonical (R36). -/
def State.Inv (s : State) : Prop :=
  Memory.wf s.mem = true ∧ mxcsrReserved s.mxcsr = 0 ∧
    (s.proc.dazSupported = false → mxcsrBit s.mxcsr .daz = false) ∧ canonical s.proc.linear s.rip = true

end Sys2Proof.Machine
end

