-- ==== Sys2Proof/Certificates/Slice0/Obligations.lean ====
section
/-!
DEFINITION. The statements for the provers. Each docstring names the rules of spec/ it formalises. `State.completed`
is the whole next state: what it does not name is as before, every byte of memory included.
-/
open Sys2Proof Sys2Proof.Machine

/-! ## The conversion function (41_numerics.md) -/

/-- R174, R178: zeros and infinities keep their sign and signal nothing. R177: with DAZ = 1 a denormal gives a zero of
the same sign and signals nothing. -/
def Obligations.ConvertZeroInfinityAndDazDenormal : Prop :=
  (∀ daz : Bool,
    cvtS2D 0x00000000 daz = ⟨0x0000000000000000, false, false⟩ ∧
    cvtS2D 0x80000000 daz = ⟨0x8000000000000000, false, false⟩ ∧
    cvtS2D 0x7F800000 daz = ⟨0x7FF0000000000000, false, false⟩ ∧
    cvtS2D 0xFF800000 daz = ⟨0xFFF0000000000000, false, false⟩) ∧
  (∀ (s : BitVec 1) (f : BitVec 23), f ≠ 0 → cvtS2D (s ++ 0#8 ++ f) true = ⟨s ++ 0#63, false, false⟩)

/-- R175: a normal single gives a normal double with `S = s`, `E = e + 896` in 897..1150, `F = f << 29`, and no flag. -/
def Obligations.ConvertNormal : Prop :=
  ∀ (s : BitVec 1) (e : BitVec 8) (f : BitVec 23) (daz : Bool), 1 ≤ e.toNat → e.toNat ≤ 254 →
    doubleClass (cvtS2D (s ++ e ++ f) daz).d = .normal ∧
    doubleSign (cvtS2D (s ++ e ++ f) daz).d = s ∧
    (doubleExp (cvtS2D (s ++ e ++ f) daz).d).toNat = e.toNat + 896 ∧
    897 ≤ e.toNat + 896 ∧ e.toNat + 896 ≤ 1150 ∧
    (doubleFrac (cvtS2D (s ++ e ++ f) daz).d).toNat = f.toNat * 2 ^ 29 ∧
    (cvtS2D (s ++ e ++ f) daz).ie = false ∧ (cvtS2D (s ++ e ++ f) daz).de = false

/-- R176: a denormal single with DAZ = 0 gives the exact normal double, `E = p + 874` in 874..896,
`F = (f - 2^p) << (52 - p)`, where `p` is the index of the highest 1 bit of `f`, and signals Denormal. -/
def Obligations.ConvertDenormal : Prop :=
  ∀ (s : BitVec 1) (f : BitVec 23) (p : Nat), 2 ^ p ≤ f.toNat → f.toNat < 2 ^ (p + 1) →
    doubleClass (cvtS2D (s ++ 0#8 ++ f) false).d = .normal ∧
    doubleSign (cvtS2D (s ++ 0#8 ++ f) false).d = s ∧
    (doubleExp (cvtS2D (s ++ 0#8 ++ f) false).d).toNat = p + 874 ∧
    874 ≤ p + 874 ∧ p + 874 ≤ 896 ∧
    (doubleFrac (cvtS2D (s ++ 0#8 ++ f) false).d).toNat = (f.toNat - 2 ^ p) * 2 ^ (52 - p) ∧
    doubleUnits (cvtS2D (s ++ 0#8 ++ f) false).d = some (withSign s f.toNat * 2 ^ 925) ∧
    (cvtS2D (s ++ 0#8 ++ f) false).ie = false ∧ (cvtS2D (s ++ 0#8 ++ f) false).de = true

/-- R179, R180: a quiet NaN keeps its sign and fraction bits; a signaling NaN is made quiet and signals Invalid, and
nothing else does. -/
def Obligations.ConvertNaN : Prop :=
  (∀ (s : BitVec 1) (f : BitVec 23) (daz : Bool), f ≠ 0 →
    (f.getLsbD 22 = true →
      cvtS2D (s ++ 255#8 ++ f) daz = ⟨s ++ 2047#11 ++ f ++ 0#29, false, false⟩) ∧
    (f.getLsbD 22 = false →
      cvtS2D (s ++ 255#8 ++ f) daz = ⟨s ++ 2047#11 ++ (f ||| 0x400000#23) ++ 0#29, true, false⟩)) ∧
  (∀ (w : Single) (daz : Bool), (cvtS2D w daz).ie = true ↔ singleClass w = .signalingNaN)

/-- R187, (a) to (f) and the last sentence: sign kept; low 29 bits zero; injective but for signaling NaNs, which agree
with their quieted forms; exact, a finite value to a finite value and an infinity to the infinity of its sign; strictly
monotone; never a denormal nor a signaling NaN; with DAZ = 1 the same on all but denormals, which give a signed zero.
Values are exact integers: units of 2^-149 for singles, of 2^-1074 for doubles. -/
def Obligations.ConversionLaws : Prop :=
  (∀ w : Single, doubleSign (cvtS2D w false).d = singleSign w) ∧
  (∀ w : Single, (cvtS2D w false).d.extractLsb' 0 29 = 0) ∧
  (∀ w w' : Single, singleClass w ≠ .signalingNaN → singleClass w' ≠ .signalingNaN →
    (cvtS2D w false).d = (cvtS2D w' false).d → w = w') ∧
  (∀ w : Single, singleClass w = .signalingNaN →
    singleClass (w ||| 0x00400000) = .quietNaN ∧ (cvtS2D w false).d = (cvtS2D (w ||| 0x00400000) false).d) ∧
  (∀ (w : Single) (u : Int), singleUnits w = some u → doubleUnits (cvtS2D w false).d = some (u * 2 ^ 925)) ∧
  (∀ w : Single, singleClass w = .infinity → doubleClass (cvtS2D w false).d = .infinity) ∧
  (∀ (w w' : Single) (u u' : Int), singleUnits w = some u → singleUnits w' = some u' → u < u' →
    ∃ x x', doubleUnits (cvtS2D w false).d = some x ∧ doubleUnits (cvtS2D w' false).d = some x' ∧ x < x') ∧
  (∀ w : Single, doubleClass (cvtS2D w false).d ≠ .denormal ∧ doubleClass (cvtS2D w false).d ≠ .signalingNaN) ∧
  (∀ w : Single, (singleClass w = .denormal → (cvtS2D w true).d = singleSign w ++ 0#63) ∧
    (singleClass w ≠ .denormal → cvtS2D w true = cvtS2D w false))

/-! ## The forms: each completes, with this result and nothing else changed (40_cvtps2pd.md) -/

/-- R141 with R140, R152: LEGACY, register source. -/
def Obligations.LegacyRegisterResult : Prop :=
  ∀ (p : Prefixes) (rex : Bool) (dst n : VReg) (s : State), s.premises .legacy →
    allMasked (elementSignals 2 (fun _ => true) (s.regWord n) s.daz) s.mxcsr →
    ∃ x, exec (.cvtps2pd p rex dst (.reg n)) s =
        .next (s.completed dst x (elementSignals 2 (fun _ => true) (s.regWord n) s.daz)
          (Instr.cvtps2pd p rex dst (.reg n)).length) ∧
      lanesAre 2 (fun _ => true) false (s.regWord n) s.daz (s.vreg dst) x ∧ upperKept 128 (s.vreg dst) x

/-- R141 with R62, R63: LEGACY, eight bytes of memory. -/
def Obligations.LegacyMemoryResult : Prop :=
  ∀ (p : Prefixes) (rex : Bool) (dst : VReg) (m : MemForm) (s : State) (ea : Quad), s.premises .legacy →
    ea = s.linearAddress (operationOf (.cvtps2pd p rex dst (.mem m))) m → s.readable ea 8 →
    allMasked (elementSignals 2 (fun _ => true) (s.memWord ea) s.daz) s.mxcsr →
    ∃ x, exec (.cvtps2pd p rex dst (.mem m)) s =
        .next (s.completed dst x (elementSignals 2 (fun _ => true) (s.memWord ea) s.daz)
          (Instr.cvtps2pd p rex dst (.mem m)).length) ∧
      lanesAre 2 (fun _ => true) false (s.memWord ea) s.daz (s.vreg dst) x ∧ upperKept 128 (s.vreg dst) x

/-- R142, R143 with R140, R152: the VEX forms in both spellings, register source. -/
def Obligations.VexRegisterResult : Prop :=
  ∀ (f : Form) (p : Prefixes) (dst n : VReg) (i : Instr) (s : State), isVexInstr f p 15 dst (.reg n) i →
    s.premises f → allMasked (elementSignals f.kl (fun _ => true) (s.regWord n) s.daz) s.mxcsr →
    ∃ x, exec i s =
        .next (s.completed dst x (elementSignals f.kl (fun _ => true) (s.regWord n) s.daz) i.length) ∧
      lanesAre f.kl (fun _ => true) false (s.regWord n) s.daz (s.vreg dst) x ∧ upperZero f.vl x

/-- R142, R143 with R62, R63: the VEX forms in both spellings, 8 or 16 bytes of memory. -/
def Obligations.VexMemoryResult : Prop :=
  ∀ (f : Form) (p : Prefixes) (dst : VReg) (m : MemForm) (i : Instr) (s : State) (ea : Quad),
    isVexInstr f p 15 dst (.mem m) i → s.premises f → ea = s.linearAddress (operationOf i) m →
    s.readable ea (f.vl / 16) →
    allMasked (elementSignals f.kl (fun _ => true) (s.memWord ea) s.daz) s.mxcsr →
    ∃ x, exec i s =
        .next (s.completed dst x (elementSignals f.kl (fun _ => true) (s.memWord ea) s.daz) i.length) ∧
      lanesAre f.kl (fun _ => true) false (s.memWord ea) s.daz (s.vreg dst) x ∧ upperZero f.vl x

/-- R144 to R146 with R140, R148, R152: the EVEX forms, register source, `b = 0`, merging or zeroing. -/
def Obligations.EvexRegisterResult : Prop :=
  ∀ (f : Form) (p : Prefixes) (aaa : KReg) (z : Bool) (dst n : VReg) (i : Instr) (s : State),
    isEvexInstr f p 15 aaa z false dst (.reg n) i → ¬ (z = true ∧ aaa = 0) → s.premises f →
    allMasked (elementSignals f.kl (s.maskBit aaa) (s.regWord n) s.daz) s.mxcsr →
    ∃ x, exec i s =
        .next (s.completed dst x (elementSignals f.kl (s.maskBit aaa) (s.regWord n) s.daz) i.length) ∧
      lanesAre f.kl (s.maskBit aaa) z (s.regWord n) s.daz (s.vreg dst) x ∧ upperZero f.vl x

/-- R144 to R146 with R62, R63, R66: the EVEX forms, a full memory operand, `b = 0`. -/
def Obligations.EvexMemoryResult : Prop :=
  ∀ (f : Form) (p : Prefixes) (aaa : KReg) (z : Bool) (dst : VReg) (m : MemForm) (i : Instr) (s : State) (ea : Quad),
    isEvexInstr f p 15 aaa z false dst (.mem m) i → ¬ (z = true ∧ aaa = 0) → s.premises f →
    ea = s.linearAddress (operationOf i) m → s.readable ea (f.vl / 16) →
    allMasked (elementSignals f.kl (s.maskBit aaa) (s.memWord ea) s.daz) s.mxcsr →
    ∃ x, exec i s =
        .next (s.completed dst x (elementSignals f.kl (s.maskBit aaa) (s.memWord ea) s.daz) i.length) ∧
      lanesAre f.kl (s.maskBit aaa) z (s.memWord ea) s.daz (s.vreg dst) x ∧ upperZero f.vl x

/-- R64, R107 with R144 to R146: the EVEX forms, broadcast. Four bytes are read, no others are asked for, and every
converted element uses them. -/
def Obligations.EvexBroadcastResult : Prop :=
  ∀ (f : Form) (p : Prefixes) (aaa : KReg) (z : Bool) (dst : VReg) (m : MemForm) (i : Instr) (s : State) (ea : Quad),
    isEvexInstr f p 15 aaa z true dst (.mem m) i → ¬ (z = true ∧ aaa = 0) → s.premises f →
    ea = s.linearAddress (operationOf i) m → s.readable ea 4 →
    allMasked (elementSignals f.kl (s.maskBit aaa) (fun _ => s.wordAt ea) s.daz) s.mxcsr →
    ∃ x, exec i s =
        .next (s.completed dst x (elementSignals f.kl (s.maskBit aaa) (fun _ => s.wordAt ea) s.daz) i.length) ∧
      lanesAre f.kl (s.maskBit aaa) z (fun _ => s.wordAt ea) s.daz (s.vreg dst) x ∧ upperZero f.vl x

/-- R181: with `sae` the results are the masked responses for every active element, no flag is set and no exception is
raised, whatever MXCSR.IM and MXCSR.DM hold; DAZ is still honoured. -/
def Obligations.SaeSuppressesExceptions : Prop :=
  ∀ (p : Prefixes) (aaa : KReg) (z : Bool) (dst n : VReg) (s : State),
    ¬ (z = true ∧ aaa = 0) → s.premises .evex512 →
    ∃ x, exec (.vcvtps2pd512Evex p 15 aaa z true dst (.reg n)) s =
        .next (s.completed dst x ⟨false, false⟩ (Instr.vcvtps2pd512Evex p 15 aaa z true dst (.reg n)).length) ∧
      lanesAre 8 (s.maskBit aaa) z (s.regWord n) s.daz (s.vreg dst) x ∧
      (s.completed dst x ⟨false, false⟩ (Instr.vcvtps2pd512Evex p 15 aaa z true dst (.reg n)).length).mxcsr = s.mxcsr

/-- R150: an all-zero writemask. No element is converted and no flag set; the destination elements are unchanged under
merging and zero under zeroing; the bits above `VL` are zero; `pc` advances; a memory source is still read, so it must
still be readable, and its fault is the instruction's fault. -/
def Obligations.AllZeroWritemask : Prop :=
  ∀ (f : Form) (p : Prefixes) (aaa : KReg) (z b : Bool) (dst : VReg) (src : Rm) (i : Instr) (s : State),
    isEvexInstr f p 15 aaa z b dst src i → i.wf = true → aaa ≠ 0 →
    (∀ j < f.kl, (s.kreg aaa).getLsbD j = false) → s.premises f →
    ((∀ m, src = .mem m → s.readable (s.linearAddress (operationOf i) m) (operationOf i).memBytes) →
      ∃ x, exec i s = .next (s.completed dst x ⟨false, false⟩ i.length) ∧
        (∀ j < f.kl, lane x j = if z then 0 else lane (s.vreg dst) j) ∧ upperZero f.vl x) ∧
    (∀ m e, src = .mem m →
      s.memRead ((operationOf i).stackAccess m) (s.linearAddress (operationOf i) m) (operationOf i).memBytes =
        .fault e →
      exec i s = .fault (.raised e s))

/-- R183, R28: the bits of a source register at inactive elements and above the elements do not matter: with them
changed, the instruction does the same. Every form, the source register not the destination. -/
def Obligations.UnusedSourceBitsIgnored : Prop :=
  ∀ (i : Instr) (n : VReg) (s t : State) (y : ZmmValue), (operationOf i).src = .reg n → n ≠ (operationOf i).dst →
    (∀ j < (operationOf i).form.kl, s.maskBit (operationOf i).aaa j = true →
      y.extractLsb' (32 * j) 32 = s.regWord n j) →
    exec i s = .next t → exec i (s.setVreg n y) = .next (t.setVreg n y)

/-- R186: destination element `j` depends only on source element `j` (or the broadcast word), DAZ, mask bit `j`, `z` and
the old destination element `j`: two runs that agree on these agree on it, whatever else differs. -/
def Obligations.LaneDependsOnItsOwnInputs : Prop :=
  ∀ (i : Instr) (s s' t t' : State) (src src' : SrcValue) (j : Nat), j < (operationOf i).form.kl →
    s.readSource (operationOf i) = .ok src → s'.readSource (operationOf i) = .ok src' →
    srcLane src j = srcLane src' j → s.daz = s'.daz →
    s.maskBit (operationOf i).aaa j = s'.maskBit (operationOf i).aaa j →
    lane (s.vreg (operationOf i).dst) j = lane (s'.vreg (operationOf i).dst) j →
    exec i s = .next t → exec i s' = .next t' →
    lane (t.vreg (operationOf i).dst) j = lane (t'.vreg (operationOf i).dst) j

/-- R173, R185: rounding control, FTZ and every other MXCSR bit but DAZ, IM and DM change nothing: with them changed
the instruction still completes, and leaves the same state but for MXCSR. -/
def Obligations.RoundingAndFtzIrrelevant : Prop :=
  ∀ (i : Instr) (s t : State) (m : BitVec 32), mxcsrBit m .daz = mxcsrBit s.mxcsr .daz →
    mxcsrBit m .im = mxcsrBit s.mxcsr .im → mxcsrBit m .dm = mxcsrBit s.mxcsr .dm → exec i s = .next t →
    ∃ m', exec i (s.setMxcsr m) = .next (t.setMxcsr m') ∧ mxcsrRC m' = mxcsrRC m ∧
      mxcsrBit m' .ftz = mxcsrBit m .ftz

/-- R99: a VEX form and its other spelling do the same, but for the one byte of length: registers and every memory
operand that is not RIP-relative. -/
def Obligations.VexSpellingsAgree : Prop :=
  ∀ (p : Prefixes) (vvvv : BitVec 4) (dst : VReg) (src : Rm) (s t : State), (∀ d, src ≠ .mem (.ripRel d)) →
    (exec (.vcvtps2pd128Vex2 p vvvv dst src) s = .next t ↔
      exec (.vcvtps2pd128Vex3 p vvvv dst src) s = .next (t.advance 1)) ∧
    (exec (.vcvtps2pd256Vex2 p vvvv dst src) s = .next t ↔
      exec (.vcvtps2pd256Vex3 p vvvv dst src) s = .next (t.advance 1)) ∧
    (∀ e u, exec (.vcvtps2pd128Vex2 p vvvv dst src) s = .fault (.raised e u) ↔
      exec (.vcvtps2pd128Vex3 p vvvv dst src) s = .fault (.raised e u)) ∧
    (∀ e u, exec (.vcvtps2pd256Vex2 p vvvv dst src) s = .fault (.raised e u) ↔
      exec (.vcvtps2pd256Vex3 p vvvv dst src) s = .fault (.raised e u))

/-- R144: with no writemask EVEX.128 (`b = 0`) computes exactly what VEX.128 computes, in either spelling of the latter:
from the same register, or from full memory operands at the same linear address, however each spells it. The two leave the
same state but for `pc`, which each advances by its own length, and raise the same numeric fault. -/
def Obligations.EvexWithoutMaskIsVex : Prop :=
  ∀ (p p' : Prefixes) (dst : VReg) (src src' : Rm) (i j : Instr) (s t : State),
    isVexInstr .vex128 p 15 dst src i → j = .vcvtps2pd128Evex p' 15 0 false false dst src' →
    s.premises .vex128 → s.premises .evex128 →
    ((∃ n, src = .reg n ∧ src' = .reg n) ∨
      (∃ m m', src = .mem m ∧ src' = .mem m' ∧
        s.linearAddress (operationOf i) m = s.linearAddress (operationOf j) m')) →
    (exec i s = .next t → exec j s = .next { t with rip := s.rip + BitVec.ofNat 64 j.length }) ∧
    (exec j s = .next t → exec i s = .next { t with rip := s.rip + BitVec.ofNat 64 i.length }) ∧
    (∀ e, e = .simdFloatingPoint ∨ e = .invalidOpcode →
      (exec i s = .fault (.raised e t) ↔ exec j s = .fault (.raised e t)))

/-! ## Faults (60_exceptions.md) -/

/-- R182 (decision D15) with R181 (decision D16), R210, R211, R34 and R33: the flag law. Past the read of the source, IE is set by an active signaling NaN and DE by an active
denormal while DAZ = 0, unless `sae`; a flag that is 1 stays 1; no other bit of MXCSR changes; and this holds whether the
instruction completes or faults. -/
def Obligations.FlagLaw : Prop :=
  ∀ (i : Instr) (s t : State) (src : SrcValue), i.wf = true → (operationOf i).vvvv = 15 →
    s.premises (operationOf i).form → s.readSource (operationOf i) = .ok src →
    (exec i s = .next t ∨ ∃ e, exec i s = .fault (.raised e t)) →
    (mxcsrBit t.mxcsr .ie = true ↔ mxcsrBit s.mxcsr .ie = true ∨
      (operationOf i).sae = false ∧ ∃ j < (operationOf i).form.kl,
        s.maskBit (operationOf i).aaa j = true ∧ singleClass (srcLane src j) = .signalingNaN) ∧
    (mxcsrBit t.mxcsr .de = true ↔ mxcsrBit s.mxcsr .de = true ∨
      (operationOf i).sae = false ∧ s.daz = false ∧ ∃ j < (operationOf i).form.kl,
        s.maskBit (operationOf i).aaa j = true ∧ singleClass (srcLane src j) = .denormal) ∧
    (∀ k, 2 ≤ k → t.mxcsr.getLsbD k = s.mxcsr.getLsbD k)

/-- R184 and R209 (decision D15) with R181 (decision D16) and R213: past the read of the source, an unmasked Invalid or Denormal sets the flags and changes nothing else, and
the fault is `#XM`, or `#UD` where CR4.OSXMMEXCPT = 0; where every signalled exception is masked, the instruction
completes with the masked responses. `sae` signals nothing. -/
def Obligations.UnmaskedExceptionDecidesCompletion : Prop :=
  ∀ (i : Instr) (s : State) (src : SrcValue) (sig : Signals), i.wf = true → (operationOf i).vvvv = 15 →
    s.premises (operationOf i).form → s.readSource (operationOf i) = .ok src →
    sig = (if (operationOf i).sae then ⟨false, false⟩
      else elementSignals (operationOf i).form.kl (s.maskBit (operationOf i).aaa) (srcLane src) s.daz) →
    (¬ allMasked sig s.mxcsr →
      exec i s = .fault (.raised (if s.osxmmexcpt then .simdFloatingPoint else .invalidOpcode)
        (s.setMxcsr (recordSignals sig s.mxcsr)))) ∧
    (allMasked sig s.mxcsr →
      ∃ x, exec i s = .next (s.completed (operationOf i).dst x sig i.length) ∧
        lanesAre (operationOf i).form.kl (s.maskBit (operationOf i).aaa) (operationOf i).z (srcLane src) s.daz
          (s.vreg (operationOf i).dst) x)

/-- R201: a stored `vvvv` other than 1111b raises `#UD` in every VEX and EVEX form, and no state changes. -/
def Obligations.WrongVvvvRaisesUD : Prop :=
  ∀ (f : Form) (p : Prefixes) (vvvv : BitVec 4) (aaa : KReg) (z b : Bool) (dst : VReg) (src : Rm) (i : Instr)
    (s : State), isVexInstr f p vvvv dst src i ∨ isEvexInstr f p vvvv aaa z b dst src i → vvvv ≠ 15 →
    exec i s = .fault (.raised .invalidOpcode s)

/-- R2, R203: a form whose CPUID flags are not all set raises `#UD`. -/
def Obligations.MissingFeatureRaisesUD : Prop :=
  ∀ (i : Instr) (s : State), i.wf = true →
    (∃ x ∈ (operationOf i).form.features, hasFeature s.proc.features x = false) →
    exec i s = .fault (.raised .invalidOpcode s)

/-- R204, the rows left to ClassCheck: CR0.EM, CR4.OSFXSR, CR4.OSXSAVE, XCR0 and the mode.
That `ClassCheck` answers these rows is the model's reading (log 11). -/
def Obligations.DisabledStateRaisesUD : Prop :=
  ∀ (i : Instr) (s : State), i.wf = true →
    ((operationOf i).form = .legacy ∧ (s.cr0EM = true ∨ s.osfxsr = false) ∨
     (operationOf i).form ≠ .legacy ∧
       (s.osxsave = false ∨ s.xcr0Avx ≠ 3 ∨ s.mode = .realAddress ∨ s.mode = .virtual8086) ∨
     (operationOf i).form.isEvex = true ∧ s.xcr0Avx512 ≠ 7) →
    exec i s = .fault (.raised .invalidOpcode s)

/-- R205: CR0.TS = 1 raises `#NM` in every form that nothing of the first group of R212 stops, whatever the memory
operand, and no state changes. The state is any one that meets the premises, with TS (bit 3 of CR0) set. -/
def Obligations.TaskSwitchedRaisesNM : Prop :=
  ∀ (i : Instr) (s : State), i.wf = true → (operationOf i).vvvv = 15 → s.premises (operationOf i).form →
    exec i { s with cr0 := s.cr0 ||| 8 } = .fault (.raised .deviceNotAvailable { s with cr0 := s.cr0 ||| 8 })

/-- R212, third and fourth groups: past decoding and the class check, a memory fault is the fault of the instruction,
with no state changed, whatever MXCSR holds. -/
def Obligations.MemoryFaultBeforeNumericFault : Prop :=
  ∀ (i : Instr) (m : MemForm) (s : State) (x : BitVec 32) (e : Exception), i.wf = true → (operationOf i).vvvv = 15 →
    s.premises (operationOf i).form → (operationOf i).src = .mem m →
    s.memRead ((operationOf i).stackAccess m) (s.linearAddress (operationOf i) m) (operationOf i).memBytes = .fault e →
    exec i (s.setMxcsr x) = .fault (.raised e (s.setMxcsr x))

/-- R74, R208: a non-canonical byte of the operand raises `#SS(0)` for an SS-relative access and `#GP(0)` otherwise.
The ES, CS, SS and DS overrides leaving the kind of fault, and operand bytes wrapping modulo 2^64, are the model's (logs
16, 17). -/
def Obligations.NonCanonicalOperandFaults : Prop :=
  ∀ (i : Instr) (m : MemForm) (s : State) (k : Nat), i.wf = true → (operationOf i).vvvv = 15 →
    s.premises (operationOf i).form → (operationOf i).src = .mem m → k < (operationOf i).memBytes →
    canonical s.proc.linear (s.linearAddress (operationOf i) m + BitVec.ofNat 64 k) = false →
    exec i s = .fault (.raised
      (if (operationOf i).stackAccess m then .stackFault else .generalProtection) s)

/-- R208: with alignment checking off, an operand one of whose bytes cannot be read faults the whole instruction, with
no state changed: `#PF`, its write and instruction-fetch bits 0, reporting the address of an unreadable byte of the
operand. The writemask plays no part (R66). Which unreadable byte is a free value
(log 8); that a byte the model does not list is unreadable is the model's choice (log 6). -/
def Obligations.UnreadableOperandPageFaults : Prop :=
  ∀ (i : Instr) (m : MemForm) (s : State) (ea : Quad), i.wf = true → (operationOf i).vvvv = 15 →
    s.premises (operationOf i).form → (operationOf i).src = .mem m → ea = s.linearAddress (operationOf i) m →
    s.alignmentChecking = false →
    (∀ k < (operationOf i).memBytes, canonical s.proc.linear (ea + BitVec.ofNat 64 k) = true ∧
      s.inRegion .sideEffects (ea + BitVec.ofNat 64 k) = false ∧ ea + BitVec.ofNat 64 k ∉ s.breakpoints) →
    (∃ k < (operationOf i).memBytes, s.readByte (ea + BitVec.ofNat 64 k) = none) →
    ∃ k code, k < (operationOf i).memBytes ∧ s.readByte (ea + BitVec.ofNat 64 k) = none ∧
      code.write = false ∧ code.fetch = false ∧
      exec i s = .fault (.raised (.pageFault code (ea + BitVec.ofNat 64 k)) s)

/-- R65, R206, R207: `#AC(0)` is raised only when alignment checking is on (CR0.AM = 1, RFLAGS.AC = 1, CPL = 3) and the
operand is not aligned to its size; and then, for an otherwise readable operand of 8 bytes or fewer, it is raised. -/
def Obligations.AlignmentCheck : Prop :=
  (∀ (i : Instr) (s t : State), exec i s = .fault (.raised .alignmentCheck t) →
    t = s ∧ s.cr0AM = true ∧ s.flagAC = true ∧ s.cpl = 3 ∧
    ∃ m, (operationOf i).src = .mem m ∧ (s.linearAddress (operationOf i) m).toNat % (operationOf i).memBytes ≠ 0) ∧
  (∀ (i : Instr) (m : MemForm) (s : State) (ea : Quad), i.wf = true → (operationOf i).vvvv = 15 →
    s.premises (operationOf i).form → (operationOf i).src = .mem m → ea = s.linearAddress (operationOf i) m →
    (operationOf i).memBytes ≤ 8 → s.alignmentChecking = true → ea.toNat % (operationOf i).memBytes ≠ 0 →
    (∀ k < (operationOf i).memBytes, canonical s.proc.linear (ea + BitVec.ofNat 64 k) = true ∧
      s.inRegion .sideEffects (ea + BitVec.ofNat 64 k) = false ∧ ea + BitVec.ofNat 64 k ∉ s.breakpoints ∧
      (s.readByte (ea + BitVec.ofNat 64 k)).isSome = true) →
    exec i s = .fault (.raised .alignmentCheck s))

/-- R68, R223: a memory source with a byte in a region with read side effects is refused. That
a non-canonical byte is reported first is the model's choice (log 30). -/
def Obligations.DeviceSourceRefused : Prop :=
  ∀ (i : Instr) (m : MemForm) (s : State) (k : Nat), i.wf = true → (operationOf i).vvvv = 15 →
    s.premises (operationOf i).form → (operationOf i).src = .mem m →
    (∀ k < (operationOf i).memBytes, canonical s.proc.linear (s.linearAddress (operationOf i) m + BitVec.ofNat 64 k)
      = true) → k < (operationOf i).memBytes →
    s.inRegion .sideEffects (s.linearAddress (operationOf i) m + BitVec.ofNat 64 k) = true →
    exec i s = .refused .readSideEffects

/-- R217: a form that took a SIMD floating-point fault, run again on the faulted state with both exceptions masked,
completes, and leaves what it would have left had they been masked at first: nothing but the sticky flags remains of the
first attempt. -/
def Obligations.RetryAfterMaskingCompletes : Prop :=
  ∀ (i : Instr) (s t : State), exec i s = .fault (.raised .simdFloatingPoint t) →
    ∃ u, exec i (t.setMxcsr (t.mxcsr ||| 0x180)) = .next u ∧ exec i (s.setMxcsr (s.mxcsr ||| 0x180)) = .next u

/-- R221: a register form executes identically at every privilege level: where it completes, it leaves the same state;
where it faults, the fault and its state are the same; where it is refused, so it is at every level. -/
def Obligations.PrivilegeLevelIrrelevant : Prop :=
  ∀ (i : Instr) (n : VReg) (s : State) (c : BitVec 2), (operationOf i).src = .reg n →
    (∀ t, exec i s = .next t → exec i { s with cpl := c } = .next { t with cpl := c }) ∧
    (∀ e t, exec i s = .fault (.raised e t) → exec i { s with cpl := c } = .fault (.raised e { t with cpl := c })) ∧
    (∀ r, exec i s = .refused r → exec i { s with cpl := c } = .refused r)

/-! ## Every step (10_state.md, 40_cvtps2pd.md, 60_exceptions.md) -/

/-- R18, R140: when the bytes at `pc` decode to an instruction and the launch conditions hold, the step is that
instruction's effect, nothing added. -/
def Obligations.StepRunsDecodedInstruction : Prop :=
  ∀ (s : State) (i : Instr) (rest : List Byte), s.mode = .mode64 → s.flagTF = false → s.rip ∉ s.breakpoints →
    decode s.proc.saeLL s.fetchBytes = .instr i rest → inOneHalf s.proc.linear s.rip i.length = true →
    step s = exec i s

/-- R40 with R34, R153: whether a step completes or faults, only vector registers, MXCSR and `pc` can have changed, every
other piece of state and every byte of memory is as before; of the vector registers only the destination; of MXCSR only
IE and DE, and those only from 0 to 1. -/
def Obligations.StateNeverWritten : Prop :=
  ∀ (s t : State), (step s = .next t ∨ ∃ e, step s = .fault (.raised e t)) →
    t = { s with v := t.v, mxcsr := t.mxcsr, rip := t.rip } ∧
    (∀ a, Memory.read t.mem a = Memory.read s.mem a) ∧
    (∀ i rest, decode s.proc.saeLL s.fetchBytes = .instr i rest →
      ∀ n, n ≠ (operationOf i).dst → t.vreg n = s.vreg n) ∧
    (∀ k, 2 ≤ k → t.mxcsr.getLsbD k = s.mxcsr.getLsbD k) ∧
    (mxcsrBit s.mxcsr .ie = true → mxcsrBit t.mxcsr .ie = true) ∧
    (mxcsrBit s.mxcsr .de = true → mxcsrBit t.mxcsr .de = true)

/-- R214, R215: at a fault `pc` is the address of the faulting instruction and nothing has changed, but MXCSR.IE and
MXCSR.DE for the SIMD floating-point fault. -/
def Obligations.FaultsArePrecise : Prop :=
  ∀ (s t : State) (e : Exception), step s = .fault (.raised e t) →
    t = { s with mxcsr := t.mxcsr } ∧ t.rip = s.rip ∧ (∀ k, 2 ≤ k → t.mxcsr.getLsbD k = s.mxcsr.getLsbD k) ∧
    (e ≠ .simdFloatingPoint → e ≠ .invalidOpcode → t = s) ∧
    (s.osxmmexcpt = true → e = .invalidOpcode → t = s)

/-- R27: the LEGACY and VEX forms leave registers 16 to 31 untouched. -/
def Obligations.UpperRegistersNeedEvex : Prop :=
  ∀ (i : Instr) (s t : State) (n : VReg), i.wf = true → (operationOf i).form.isEvex = false →
    exec i s = .next t → 16 ≤ n.toNat → t.vreg n = s.vreg n

/-- R36: a form that completes has advanced `pc` by its length, without wrapping and inside one canonical half; one that
faults has left it; an instruction that is not wholly inside one canonical half is refused. -/
def Obligations.PcAdvancesByLength : Prop :=
  (∀ (s t : State), step s = .next t → ∃ i rest, decode s.proc.saeLL s.fetchBytes = .instr i rest ∧
    t.rip = s.rip + BitVec.ofNat 64 i.length ∧ t.rip.toNat = s.rip.toNat + i.length ∧
    (t.rip.toNat < halfSize s.proc.linear ∨ 2 ^ 64 - halfSize s.proc.linear ≤ s.rip.toNat)) ∧
  (∀ (s t : State) (e : Exception), step s = .fault (.raised e t) → t.rip = s.rip) ∧
  (∀ (s : State) (i : Instr) (rest : List Byte), s.mode = .mode64 → s.flagTF = false → s.rip ∉ s.breakpoints →
    decode s.proc.saeLL s.fetchBytes = .instr i rest → inOneHalf s.proc.linear s.rip i.length = false →
    step s = .refused .pcOutsideCanonicalHalf)

/-- The model's invariant (R33, R36, R60, R251 P8; log 6 for the memory's form): every step keeps it. -/
def Obligations.StepKeepsInvariant : Prop :=
  ∀ (s t : State), s.Inv → step s = .next t → t.Inv

/-- The state after RESET satisfies the invariant. -/
def Obligations.ResetSatisfiesInvariant : Prop := State.reset.Inv

/-! ## Reset, INIT, launch (10_state.md R46, 70_reset_and_hazards.md R251) -/

/-- R46, second column, for the values it gives: the first fetch is at FFFFFFF0H. -/
def Obligations.ResetValues : Prop :=
  (∀ n, State.reset.vreg n = 0) ∧ (∀ n, State.reset.kreg n = 0) ∧ State.reset.mxcsr = 0x1F80 ∧
    State.reset.rip = 0xFFF0 ∧ State.reset.csBase = 0xFFFF0000 ∧ State.reset.fetchAddress = 0xFFFFFFF0 ∧
    (∀ r, r ≠ 2 → State.reset.greg r = 0) ∧ State.reset.rflags = 2 ∧ State.reset.cr0 = 0x60000010 ∧
    State.reset.cr4 = 0 ∧ State.reset.xcr0 = 1 ∧ State.reset.mode = .realAddress ∧ State.reset.cpl = 0

/-- R46, last paragraph: straight after reset no form is executable, in the reset mode or with only the mode changed,
whatever memory holds. -/
def Obligations.NothingRunsStraightAfterReset : Prop :=
  ∀ (m : List Host.Cell) (mode : Mode) (t : State), step { State.reset with mem := m, mode := mode } ≠ .next t

/-- R46, third column: INIT leaves the vector registers, the opmask registers, MXCSR and bits CD and NW of CR0, and
sets the rest as after RESET. That CD and NW are bits 30 and 29 is presumed (log 23). -/
def Obligations.InitKeepsVectorState : Prop :=
  ∀ s : State, (∀ n, s.afterInit.vreg n = s.vreg n) ∧ (∀ n, s.afterInit.kreg n = s.kreg n) ∧
    s.afterInit.mxcsr = s.mxcsr ∧
    (∀ k, s.afterInit.cr0.getLsbD k = if k = 29 ∨ k = 30 then s.cr0.getLsbD k else State.reset.cr0.getLsbD k) ∧
    s.afterInit.rip = State.reset.rip ∧ s.afterInit.csBase = State.reset.csBase ∧ s.afterInit.gpr = State.reset.gpr ∧
    s.afterInit.rflags = 2 ∧ s.afterInit.cr4 = 0 ∧ s.afterInit.xcr0 = 1 ∧
    s.afterInit.mode = .realAddress ∧ s.afterInit.cpl = 0

/-- R251: launching makes the premises P1 to P6 hold for every form whose features are present, with CR4.OSXMMEXCPT = 1
(P7) and no single-step (P10). `launch` is the model's own function (log 1). -/
def Obligations.LaunchMeetsPremises : Prop :=
  ∀ (s : State) (f : Form), (∀ x ∈ f.features, hasFeature s.proc.features x = true) →
    s.launch.premises f ∧ s.launch.osxmmexcpt = true ∧ s.launch.flagTF = false ∧ s.launch.breakpoints = []

/-- The model's launch (log 1): an instruction placed by `withFetchWord` is the one the very next step runs. -/
def Obligations.PlacedWordRunsNext : Prop :=
  ∀ (s : State) (nbits w : Nat) (i : Instr), s.proc.saeLL = .refuse →
    s.rip.toNat + 15 < halfSize s.proc.linear → decodeTableWord nbits w = some i →
    step (s.withFetchWord nbits w) = exec i (s.withFetchWord nbits w)

/-! ## Encoding and decoding (30_encoding.md) -/

/-- R93 to R109, R135: decoding the encoding of a well-formed instruction gives it back, with every operand at every
value the encoding admits, the legacy prefixes in either order, under either policy of R125 and whatever bytes follow. -/
def Obligations.DecodeEncodeRoundTrip : Prop :=
  ∀ (pol : SaeLLPolicy) (i : Instr) (rest : List Byte), i.wf = true →
    decode pol (encode i ++ rest) = .instr i rest ∧
    (∀ pre, i.prefixes.spelledBy pre →
      decode pol (pre ++ ((encode i).drop i.prefixes.count ++ rest)) = .instr i rest)

/-- R115: the length is the number of bytes of the encoding, at most 13 and at least 3, 4, 5 or 6 by format; and the
decoder consumes exactly that many bytes. -/
def Obligations.LengthIsNumberOfBytes : Prop :=
  (∀ i : Instr, (encode i).length = i.length ∧ i.length ≤ 13 ∧ 3 ≤ i.length ∧
    ((operationOf i).form ≠ .legacy → 4 ≤ i.length) ∧
    (i.rowIndex = 3 ∨ i.rowIndex = 4 → 5 ≤ i.length) ∧ ((operationOf i).form.isEvex = true → 6 ≤ i.length)) ∧
  (∀ (pol : SaeLLPolicy) (bs rest : List Byte) (i : Instr), decode pol bs = .instr i rest →
    ∃ used, bs = used ++ rest ∧ used.length = i.length)

/-- R27, R106, R123, R125: what the decoder gives is well-formed. -/
def Obligations.DecodedIsWellFormed : Prop :=
  ∀ (pol : SaeLLPolicy) (bs rest : List Byte) (i : Instr), decode pol bs = .instr i rest → i.wf = true

/-- R119: the bytes of a well-formed instruction after its prefixes match the row of its form and no other row. -/
def Obligations.EncodingMatchesItsRowAlone : Prop :=
  ∀ (i : Instr) (k : Nat) (h : k < opcodeRows.length),
    (opcodeRows[k]'h).accepts ((encode i).drop i.lead) = true ↔ k = i.rowIndex

/-- R92, R94, R95, R98, R127: after any admitted prefixes, in any order, and whatever follows: `66`, `F2`, `F3` and `F0`
are refused; a second segment override or a second `67` is refused; a REX byte not immediately before `0F` is refused,
before `C5`, `C4` and `62` among others. -/
def Obligations.InvalidPrefixRefused : Prop :=
  ∀ (pol : SaeLLPolicy) (p : Prefixes) (pre bs : List Byte), p.spelledBy pre →
    (∀ b : Byte, b = 0x66 ∨ b = 0xF2 ∨ b = 0xF3 ∨ b = 0xF0 →
      decode pol (pre ++ b :: bs) = .refuse .forbiddenPrefix) ∧
    (∀ sg : Segment, p.seg ≠ none → decode pol (pre ++ sg.byte :: bs) = .refuse .repeatedPrefix) ∧
    (p.addr32 = true → decode pol (pre ++ 0x67 :: bs) = .refuse .repeatedPrefix) ∧
    (∀ (x : BitVec 4) (op : Byte), op ≠ 0x0F →
      decode pol (pre ++ (4#4 ++ x) :: op :: bs) = .refuse .rexNotBeforeOpcode)

/-- R94: the order of the legacy prefixes does not matter: whatever bytes follow, `67` before the segment override
decodes, faults and is refused as the segment override before `67` does. -/
def Obligations.PrefixOrderIrrelevant : Prop :=
  ∀ (pol : SaeLLPolicy) (sg : Segment) (bs : List Byte),
    decode pol (0x67 :: sg.byte :: bs) = decode pol (sg.byte :: 0x67 :: bs)

/-- R121: VEX `W` and REX.W are ignored: with the bit set the bytes decode to the same instruction. EVEX `W = 1` is
refused, whatever the other bytes. The admitted prefixes before them stand in any order. -/
def Obligations.WBits : Prop :=
  ∀ (pol : SaeLLPolicy) (p : Prefixes) (pre bs : List Byte), p.spelledBy pre →
    (∀ (r : BitVec 3) (vvvv : BitVec 4) (l : BitVec 1),
      decode pol (pre ++ 0xC4 :: (r ++ 1#5) :: (1#1 ++ vvvv ++ l ++ 0#2) :: 0x5A :: bs) =
        decode pol (pre ++ 0xC4 :: (r ++ 1#5) :: (0#1 ++ vvvv ++ l ++ 0#2) :: 0x5A :: bs)) ∧
    (∀ rxb : BitVec 3,
      decode pol (pre ++ (4#4 ++ 1#1 ++ rxb) :: 0x0F :: 0x5A :: bs) =
        decode pol (pre ++ (4#4 ++ 0#1 ++ rxb) :: 0x0F :: 0x5A :: bs)) ∧
    (∀ (p0 p2 op : Byte) (x : BitVec 7), ∃ r, decode pol (pre ++ 0x62 :: p0 :: (1#1 ++ x) :: p2 :: op :: bs) =
      .refuse r)

/-- R122, R123, R124, and R125 (decision D17) under the default policy, which is the model's choice at reset (log 14):
after any admitted prefixes in any order, EVEX bytes with stored `vvvv = 1111b` and a reserved combination are refused,
whatever the operand `rm`, which the bytes after the opcode spell; and so are bytes with a wrong fixed field: P0 bits 3:0,
P1 bit 2 or `pp`. -/
def Obligations.ReservedEvexFieldsRefused : Prop :=
  ∀ (p : Prefixes) (pre : List Byte), p.spelledBy pre →
    (∀ (z b : Bool) (v' : BitVec 1) (ll : BitVec 2) (aaa : KReg) (dst : VReg) (src : Rm)
      (rest : List Byte), src.wf = true →
      (v' = 0 ∨ (z = true ∧ aaa = 0) ∨ (b = true ∧ src.isReg = true ∧ ll ≠ 2) ∨ ll = 3) →
      ∃ r, decode .refuse (pre ++ 0x62 :: evexByte0 (dstR dst) src.bitX src.bitB (dstR' dst) :: evexByte1 15 ::
        (BitVec.ofBool z ++ ll ++ BitVec.ofBool b ++ v' ++ aaa) :: 0x5A :: (src.encode (dstLow dst) ++ rest)) =
          .refuse r) ∧
    (∀ (pol : SaeLLPolicy) (p0 p1 p2 op : Byte) (bs : List Byte),
      p0.extractLsb' 0 4 ≠ 1 ∨ p1.getLsbD 2 = false ∨ p1.extractLsb' 0 2 ≠ 0 →
      ∃ r, decode pol (pre ++ 0x62 :: p0 :: p1 :: p2 :: op :: bs) = .refuse r)

/-- R125 under `vl512`: with `b = 1` and a register source every `L'L` is the EVEX.512 `sae` form, after any admitted
prefixes in any order. -/
def Obligations.SaeAtAnyLengthUnderVl512 : Prop :=
  ∀ (p : Prefixes) (pre : List Byte) (z : Bool) (ll : BitVec 2) (aaa : KReg) (dst n : VReg) (rest : List Byte),
    p.spelledBy pre → ¬ (z = true ∧ aaa = 0) →
    decode .vl512 (pre ++ (encodeEvex Prefixes.empty ll 15 aaa z true dst (.reg n) ++ rest)) =
      .instr (.vcvtps2pd512Evex p 15 aaa z true dst (.reg n)) rest

/-- R120, R135 step 5: in bytes of an EVEX form, after any admitted prefixes in any order, a stored `vvvv` other than 1111b
is a `#UD` before any other reserved field is looked at. The decoder never refuses them; and a step that fetches them
under the launch conditions raises `#UD` with no state changed, whatever the other fields of P2 hold. That this holds for
`L'L = 11b` too is the model's reading (log 13). -/
def Obligations.WrongVvvvComesFirst : Prop :=
  ∀ (p : Prefixes) (pre : List Byte) (vvvv : BitVec 4) (p2 : Byte) (dst : VReg) (src : Rm) (rest bs : List Byte),
    p.spelledBy pre → src.wf = true → vvvv ≠ 15 →
    bs = pre ++ 0x62 :: evexByte0 (dstR dst) src.bitX src.bitB (dstR' dst) :: evexByte1 vvvv :: p2 :: 0x5A ::
      (src.encode (dstLow dst) ++ rest) →
    (∀ (pol : SaeLLPolicy) (s : State),
      decode pol bs = .invalidOpcode (p.count + 5 + src.length) ∨
      (∃ i, decode pol bs = .instr i rest ∧ i.length = p.count + 5 + src.length ∧
        exec i s = .fault (.raised .invalidOpcode s))) ∧
    (∀ s : State, s.mode = .mode64 → s.flagTF = false → s.rip ∉ s.breakpoints → s.fetchBytes = bs →
      inOneHalf s.proc.linear s.rip (p.count + 5 + src.length) = true →
      step s = .fault (.raised .invalidOpcode s))

/-- Sanity: words written out from the encodings of R95 to R101 decode to the instructions they stand for. -/
def Obligations.SampleWordsDecode : Prop :=
  decode .refuse [0x45, 0x0F, 0x5A, 0xCA] = .instr (.cvtps2pd ⟨none, false⟩ true 9 (.reg 10)) [] ∧
  decode .refuse [0xC5, 0x7C, 0x5A, 0x06] =
    .instr (.vcvtps2pd256Vex2 ⟨none, false⟩ 15 8 (.mem (.base 6 .none))) [] ∧
  decode .refuse [0xC4, 0xC1, 0x7C, 0x5A, 0x6C, 0xD1, 0xFC] =
    .instr (.vcvtps2pd256Vex3 ⟨none, false⟩ 15 5 (.mem (.sib 3 2 9 (.disp8 0xFC)))) [] ∧
  decode .refuse [0x62, 0x81, 0x7C, 0x4F, 0x5A, 0xC9] =
    .instr (.vcvtps2pd512Evex ⟨none, false⟩ 15 7 false false 17 (.reg 25)) []

/-! ## Addresses and memory (20_memory.md) -/

/-- R69, R70, R71, R74: the linear address of each memory form at 64-bit address size, under every segment override: FS
and GS add their base, the other overrides and none add nothing. -/
def Obligations.EffectiveAddressForms : Prop :=
  ∀ (c : Operation) (s : State) (b i : Gpr) (sc : BitVec 2) (d : Disp) (d32 : BitVec 32) (segbase : Quad),
    c.pre.addr32 = false →
    segbase = (match c.pre.seg with | some .fs => s.fsBase | some .gs => s.gsBase | _ => 0) →
    s.linearAddress c (.base b d) = segbase + (s.greg b + dispValue c.dispScale d) ∧
    (i ≠ 4 → s.linearAddress c (.sib sc i b d) =
      segbase + (s.greg b + s.greg i * BitVec.ofNat 64 (2 ^ sc.toNat) + dispValue c.dispScale d)) ∧
    s.linearAddress c (.sib sc 4 b d) = segbase + (s.greg b + dispValue c.dispScale d) ∧
    (i ≠ 4 → s.linearAddress c (.sibNoBase sc i d32) =
      segbase + (s.greg i * BitVec.ofNat 64 (2 ^ sc.toNat) + d32.signExtend 64)) ∧
    s.linearAddress c (.sibNoBase sc 4 d32) = segbase + d32.signExtend 64 ∧
    s.linearAddress c (.ripRel d32) = segbase + (s.rip + BitVec.ofNat 64 c.len + d32.signExtend 64)

/-- R72: the scale `N` of an 8-bit displacement, which is the number of bytes read (R63) and which only the EVEX forms
apply; a 32-bit displacement is never scaled, nor is that of the no-base and RIP-relative forms. -/
def Obligations.CompressedDisplacement : Prop :=
  ∀ (c : Operation) (m : MemForm), c.src = .mem m →
    (c.form = .evex128 → c.b = false → c.dispScale = 8) ∧ (c.form = .evex256 → c.b = false → c.dispScale = 16) ∧
    (c.form = .evex512 → c.b = false → c.dispScale = 32) ∧
    (c.form.isEvex = true → c.b = true → c.dispScale = 4) ∧
    (c.form.isEvex = true → c.dispScale = c.memBytes) ∧ (c.form.isEvex = false → c.dispScale = 1) ∧
    (∀ d : BitVec 8, dispValue c.dispScale (.disp8 d) = d.signExtend 64 * BitVec.ofNat 64 c.dispScale) ∧
    (∀ d : BitVec 32, dispValue c.dispScale (.disp32 d) = d.signExtend 64) ∧
    (∀ (s : State) (a32 : Bool) (n len : Nat) (sc : BitVec 2) (i : Gpr) (d : BitVec 32),
      s.addressSum a32 n len (.ripRel d) = s.addressSum a32 1 len (.ripRel d) ∧
      s.addressSum a32 n len (.sibNoBase sc i d) = s.addressSum a32 1 len (.sibNoBase sc i d))

/-- R73: under `67` the base and index count by their low 32 bits, the sum is taken modulo 2^32 and zero-extended before
the segment base is added; every memory form. -/
def Obligations.AddressSize : Prop :=
  ∀ (c : Operation) (s : State) (m : MemForm), c.pre.addr32 = true →
    ∃ off : BitVec 32,
      s.linearAddress c m =
        (match c.pre.seg with | some .fs => s.fsBase | some .gs => s.gsBase | _ => 0) + off.setWidth 64 ∧
      (∀ b d, m = .base b d → off = (s.greg b).setWidth 32 + (dispValue c.dispScale d).setWidth 32) ∧
      (∀ sc i b d, m = .sib sc i b d → off = (s.greg b).setWidth 32 +
        (if i = 4 then 0 else (s.greg i).setWidth 32 * BitVec.ofNat 32 (2 ^ sc.toNat)) +
        (dispValue c.dispScale d).setWidth 32) ∧
      (∀ sc i d, m = .sibNoBase sc i d →
        off = (if i = 4 then 0 else (s.greg i).setWidth 32 * BitVec.ofNat 32 (2 ^ sc.toNat)) + d) ∧
      (∀ d, m = .ripRel d → off = s.rip.setWidth 32 + BitVec.ofNat 32 c.len + d)

/-- R61, R13: a data read gives the bytes in little-endian order: byte `i` of the value is the byte at `addr + i`. Bytes
stored by `MemWrite` are read back in place, and every other address reads as before. The
list of cells is the model's form of memory (log 6). -/
def Obligations.MemoryIsLittleEndian : Prop :=
  (∀ (s : State) (stack : Bool) (ea : Quad) (n x : Nat), s.memRead stack ea n = .ok x →
    x < 2 ^ (8 * n) ∧
    ∀ i < n, s.readByte (ea + BitVec.ofNat 64 i) = some (BitVec.ofNat 8 (x / 2 ^ (8 * i)))) ∧
  (∀ (m : List Host.Cell) (a : Quad) (bs : List Byte), bs.length ≤ 2 ^ 64 →
    (∀ i (h : i < bs.length), Memory.read (Memory.writeBytes m a bs) (a + BitVec.ofNat 64 i).toNat = some bs[i]) ∧
    (∀ x : Nat, (∀ i < bs.length, x ≠ (a + BitVec.ofNat 64 i).toNat) →
      Memory.read (Memory.writeBytes m a bs) x = Memory.read m x))
end

