-- ==== Sys2Proof/Laws/Lanes.lean ====
section
/-!
SUPPORT. The 64-bit elements of a vector register value: an element written is read back, the others and the bits
above stay, and so the elements and the upper bits of a destination value.
-/
namespace Sys2Proof.Machine

/-- Bit `i` of a value after element `j` is written. -/
theorem getLsbD_setLane (x : ZmmValue) (j i : Nat) (d : Double) (hi : i < 512) :
    (setLane x j d).getLsbD i = if 64 * j ≤ i ∧ i < 64 * j + 64 then d.getLsbD (i - 64 * j) else x.getLsbD i := by
  simp only [setLane, BitVec.getLsbD_or, BitVec.getLsbD_and, BitVec.getLsbD_not, BitVec.getLsbD_shiftLeft,
    BitVec.getLsbD_setWidth, BitVec.getLsbD_allOnes, hi, decide_true, Bool.true_and]
  by_cases h1 : i < 64 * j
  · have : ¬ (64 * j ≤ i ∧ i < 64 * j + 64) := by omega
    simp [h1, this]
  · by_cases h2 : i < 64 * j + 64
    · have h3 : i - 64 * j < 64 := by omega
      have h4 : i - 64 * j < 512 := by omega
      have h5 : 64 * j ≤ i ∧ i < 64 * j + 64 := by omega
      simp [h1, h3, h4, h5]
    · have h3 : ¬ (i - 64 * j < 64) := by omega
      have h5 : ¬ (64 * j ≤ i ∧ i < 64 * j + 64) := by omega
      have h6 : d.getLsbD (i - 64 * j) = false := BitVec.getLsbD_of_ge _ _ (by omega)
      simp [h1, h3, h5, h6]

@[simp] theorem lane_setLane_same (x : ZmmValue) (j : Nat) (d : Double) (hj : j < 8) : lane (setLane x j d) j = d := by
  apply BitVec.eq_of_getLsbD_eq
  intro i hi
  have h := getLsbD_setLane x j (64 * j + i) d (by omega)
  rw [if_pos (by omega), show 64 * j + i - 64 * j = i by omega] at h
  simpa [lane, BitVec.getLsbD_extractLsb', hi] using h

theorem lane_setLane_other (x : ZmmValue) (j k : Nat) (d : Double) (hk : k < 8) (h : k ≠ j) :
    lane (setLane x j d) k = lane x k := by
  apply BitVec.eq_of_getLsbD_eq
  intro i hi
  have h' := getLsbD_setLane x j (64 * k + i) d (by omega)
  rw [if_neg (by omega)] at h'
  simpa [lane, BitVec.getLsbD_extractLsb', hi] using h'

/-- Writing the elements `0 .. kl-1` in order. -/
theorem lane_foldl_setLane (g : Nat → Double) (x : ZmmValue) (kl j : Nat) (hkl : kl ≤ 8) (hj : j < 8) :
    lane ((List.range kl).foldl (fun y i => setLane y i (g i)) x) j = if j < kl then g j else lane x j := by
  induction kl with
  | zero => simp
  | succ n ih =>
    rw [List.range_succ, List.foldl_append, List.foldl_cons, List.foldl_nil]
    by_cases e : j = n
    · subst e
      simp [lane_setLane_same _ _ _ hj]
    · rw [lane_setLane_other _ _ _ _ hj e, ih (by omega)]
      have : j < n ↔ j < n + 1 := by omega
      simp [this]

/-- Writing the elements `0 .. kl-1` leaves the bits above them. -/
theorem getLsbD_foldl_setLane (g : Nat → Double) (x : ZmmValue) (kl i : Nat) (hkl : kl ≤ 8) (hi : 64 * kl ≤ i) :
    ((List.range kl).foldl (fun y j => setLane y j (g j)) x).getLsbD i = x.getLsbD i := by
  by_cases h512 : i < 512
  · induction kl with
    | zero => simp
    | succ n ih =>
      rw [List.range_succ, List.foldl_append, List.foldl_cons, List.foldl_nil,
        getLsbD_setLane _ _ _ _ h512, if_neg (by omega), ih (by omega) (by omega)]
  · rw [BitVec.getLsbD_of_ge _ _ (by omega), BitVec.getLsbD_of_ge _ _ (by omega)]

theorem kl_le (f : Form) : f.kl ≤ 8 := by cases f <;> decide

theorem vl_eq (f : Form) : f.vl = 64 * f.kl := by cases f <;> rfl

/-- The elements of the new destination value (R140 line 9). -/
theorem lane_destValue (s : State) (c : Operation) (src : SrcValue) (j : Nat) (hj : j < c.form.kl) :
    lane (s.destValue c src) j = s.destLane c src j := by
  have := kl_le c.form
  rw [State.destValue, lane_foldl_setLane _ _ _ _ this (by omega), if_pos hj]

/-- The upper bits of the new destination value (R140 line 10): kept by LEGACY, zeroed by the others. -/
theorem upper_destValue (s : State) (c : Operation) (src : SrcValue) (i : Nat) (hi : c.form.vl ≤ i) :
    (s.destValue c src).getLsbD i = if c.form = .legacy then (s.vreg c.dst).getLsbD i else false := by
  rw [State.destValue, getLsbD_foldl_setLane _ _ _ _ (kl_le _) (by rw [← vl_eq]; exact hi), State.destBase]
  split
  · rfl
  · rw [BitVec.getLsbD_setWidth, BitVec.getLsbD_setWidth]
    have : ¬ i < c.form.vl := by omega
    simp [this]

end Sys2Proof.Machine
end

