-- ==== Sys2Proof/Laws/State.lean ====
section
/-!
SUPPORT. One lemma per field per state update, and the register read after a register write.
-/
namespace Sys2Proof.Machine

/-! ## setVreg -/

@[simp] theorem setVreg_v (s : State) (n : VReg) (x : ZmmValue) : (s.setVreg n x).v = s.v.set n.toNat x n.isLt := rfl
@[simp] theorem setVreg_k (s : State) (n : VReg) (x : ZmmValue) : (s.setVreg n x).k = s.k := rfl
@[simp] theorem setVreg_mxcsr (s : State) (n : VReg) (x : ZmmValue) : (s.setVreg n x).mxcsr = s.mxcsr := rfl
@[simp] theorem setVreg_rip (s : State) (n : VReg) (x : ZmmValue) : (s.setVreg n x).rip = s.rip := rfl
@[simp] theorem setVreg_gpr (s : State) (n : VReg) (x : ZmmValue) : (s.setVreg n x).gpr = s.gpr := rfl
@[simp] theorem setVreg_csBase (s : State) (n : VReg) (x : ZmmValue) : (s.setVreg n x).csBase = s.csBase := rfl
@[simp] theorem setVreg_fsBase (s : State) (n : VReg) (x : ZmmValue) : (s.setVreg n x).fsBase = s.fsBase := rfl
@[simp] theorem setVreg_gsBase (s : State) (n : VReg) (x : ZmmValue) : (s.setVreg n x).gsBase = s.gsBase := rfl
@[simp] theorem setVreg_rflags (s : State) (n : VReg) (x : ZmmValue) : (s.setVreg n x).rflags = s.rflags := rfl
@[simp] theorem setVreg_cr0 (s : State) (n : VReg) (x : ZmmValue) : (s.setVreg n x).cr0 = s.cr0 := rfl
@[simp] theorem setVreg_cr2 (s : State) (n : VReg) (x : ZmmValue) : (s.setVreg n x).cr2 = s.cr2 := rfl
@[simp] theorem setVreg_cr4 (s : State) (n : VReg) (x : ZmmValue) : (s.setVreg n x).cr4 = s.cr4 := rfl
@[simp] theorem setVreg_xcr0 (s : State) (n : VReg) (x : ZmmValue) : (s.setVreg n x).xcr0 = s.xcr0 := rfl
@[simp] theorem setVreg_cpl (s : State) (n : VReg) (x : ZmmValue) : (s.setVreg n x).cpl = s.cpl := rfl
@[simp] theorem setVreg_mode (s : State) (n : VReg) (x : ZmmValue) : (s.setVreg n x).mode = s.mode := rfl
@[simp] theorem setVreg_mem (s : State) (n : VReg) (x : ZmmValue) : (s.setVreg n x).mem = s.mem := rfl
@[simp] theorem setVreg_regions (s : State) (n : VReg) (x : ZmmValue) : (s.setVreg n x).regions = s.regions := rfl
@[simp] theorem setVreg_breakpoints (s : State) (n : VReg) (x : ZmmValue) : (s.setVreg n x).breakpoints = s.breakpoints := rfl
@[simp] theorem setVreg_proc (s : State) (n : VReg) (x : ZmmValue) : (s.setVreg n x).proc = s.proc := rfl

/-! ## setMxcsr -/

@[simp] theorem setMxcsr_v (s : State) (m : BitVec 32) : (s.setMxcsr m).v = s.v := rfl
@[simp] theorem setMxcsr_k (s : State) (m : BitVec 32) : (s.setMxcsr m).k = s.k := rfl
@[simp] theorem setMxcsr_mxcsr (s : State) (m : BitVec 32) : (s.setMxcsr m).mxcsr = m := rfl
@[simp] theorem setMxcsr_rip (s : State) (m : BitVec 32) : (s.setMxcsr m).rip = s.rip := rfl
@[simp] theorem setMxcsr_gpr (s : State) (m : BitVec 32) : (s.setMxcsr m).gpr = s.gpr := rfl
@[simp] theorem setMxcsr_csBase (s : State) (m : BitVec 32) : (s.setMxcsr m).csBase = s.csBase := rfl
@[simp] theorem setMxcsr_fsBase (s : State) (m : BitVec 32) : (s.setMxcsr m).fsBase = s.fsBase := rfl
@[simp] theorem setMxcsr_gsBase (s : State) (m : BitVec 32) : (s.setMxcsr m).gsBase = s.gsBase := rfl
@[simp] theorem setMxcsr_rflags (s : State) (m : BitVec 32) : (s.setMxcsr m).rflags = s.rflags := rfl
@[simp] theorem setMxcsr_cr0 (s : State) (m : BitVec 32) : (s.setMxcsr m).cr0 = s.cr0 := rfl
@[simp] theorem setMxcsr_cr2 (s : State) (m : BitVec 32) : (s.setMxcsr m).cr2 = s.cr2 := rfl
@[simp] theorem setMxcsr_cr4 (s : State) (m : BitVec 32) : (s.setMxcsr m).cr4 = s.cr4 := rfl
@[simp] theorem setMxcsr_xcr0 (s : State) (m : BitVec 32) : (s.setMxcsr m).xcr0 = s.xcr0 := rfl
@[simp] theorem setMxcsr_cpl (s : State) (m : BitVec 32) : (s.setMxcsr m).cpl = s.cpl := rfl
@[simp] theorem setMxcsr_mode (s : State) (m : BitVec 32) : (s.setMxcsr m).mode = s.mode := rfl
@[simp] theorem setMxcsr_mem (s : State) (m : BitVec 32) : (s.setMxcsr m).mem = s.mem := rfl
@[simp] theorem setMxcsr_regions (s : State) (m : BitVec 32) : (s.setMxcsr m).regions = s.regions := rfl
@[simp] theorem setMxcsr_breakpoints (s : State) (m : BitVec 32) : (s.setMxcsr m).breakpoints = s.breakpoints := rfl
@[simp] theorem setMxcsr_proc (s : State) (m : BitVec 32) : (s.setMxcsr m).proc = s.proc := rfl

/-! ## advance -/

@[simp] theorem advance_v (s : State) (len : Nat) : (s.advance len).v = s.v := rfl
@[simp] theorem advance_k (s : State) (len : Nat) : (s.advance len).k = s.k := rfl
@[simp] theorem advance_mxcsr (s : State) (len : Nat) : (s.advance len).mxcsr = s.mxcsr := rfl
@[simp] theorem advance_rip (s : State) (len : Nat) : (s.advance len).rip = s.rip + BitVec.ofNat 64 len := rfl
@[simp] theorem advance_gpr (s : State) (len : Nat) : (s.advance len).gpr = s.gpr := rfl
@[simp] theorem advance_csBase (s : State) (len : Nat) : (s.advance len).csBase = s.csBase := rfl
@[simp] theorem advance_fsBase (s : State) (len : Nat) : (s.advance len).fsBase = s.fsBase := rfl
@[simp] theorem advance_gsBase (s : State) (len : Nat) : (s.advance len).gsBase = s.gsBase := rfl
@[simp] theorem advance_rflags (s : State) (len : Nat) : (s.advance len).rflags = s.rflags := rfl
@[simp] theorem advance_cr0 (s : State) (len : Nat) : (s.advance len).cr0 = s.cr0 := rfl
@[simp] theorem advance_cr2 (s : State) (len : Nat) : (s.advance len).cr2 = s.cr2 := rfl
@[simp] theorem advance_cr4 (s : State) (len : Nat) : (s.advance len).cr4 = s.cr4 := rfl
@[simp] theorem advance_xcr0 (s : State) (len : Nat) : (s.advance len).xcr0 = s.xcr0 := rfl
@[simp] theorem advance_cpl (s : State) (len : Nat) : (s.advance len).cpl = s.cpl := rfl
@[simp] theorem advance_mode (s : State) (len : Nat) : (s.advance len).mode = s.mode := rfl
@[simp] theorem advance_mem (s : State) (len : Nat) : (s.advance len).mem = s.mem := rfl
@[simp] theorem advance_regions (s : State) (len : Nat) : (s.advance len).regions = s.regions := rfl
@[simp] theorem advance_breakpoints (s : State) (len : Nat) : (s.advance len).breakpoints = s.breakpoints := rfl
@[simp] theorem advance_proc (s : State) (len : Nat) : (s.advance len).proc = s.proc := rfl

/-! ## completed -/

@[simp] theorem completed_v (s : State) (dst : VReg) (x : ZmmValue) (sig : Signals) (len : Nat) :
    (s.completed dst x sig len).v = s.v.set dst.toNat x dst.isLt := rfl
@[simp] theorem completed_k (s : State) (dst : VReg) (x : ZmmValue) (sig : Signals) (len : Nat) :
    (s.completed dst x sig len).k = s.k := rfl
@[simp] theorem completed_mxcsr (s : State) (dst : VReg) (x : ZmmValue) (sig : Signals) (len : Nat) :
    (s.completed dst x sig len).mxcsr = recordSignals sig s.mxcsr := rfl
@[simp] theorem completed_rip (s : State) (dst : VReg) (x : ZmmValue) (sig : Signals) (len : Nat) :
    (s.completed dst x sig len).rip = s.rip + BitVec.ofNat 64 len := rfl
@[simp] theorem completed_gpr (s : State) (dst : VReg) (x : ZmmValue) (sig : Signals) (len : Nat) :
    (s.completed dst x sig len).gpr = s.gpr := rfl
@[simp] theorem completed_csBase (s : State) (dst : VReg) (x : ZmmValue) (sig : Signals) (len : Nat) :
    (s.completed dst x sig len).csBase = s.csBase := rfl
@[simp] theorem completed_fsBase (s : State) (dst : VReg) (x : ZmmValue) (sig : Signals) (len : Nat) :
    (s.completed dst x sig len).fsBase = s.fsBase := rfl
@[simp] theorem completed_gsBase (s : State) (dst : VReg) (x : ZmmValue) (sig : Signals) (len : Nat) :
    (s.completed dst x sig len).gsBase = s.gsBase := rfl
@[simp] theorem completed_rflags (s : State) (dst : VReg) (x : ZmmValue) (sig : Signals) (len : Nat) :
    (s.completed dst x sig len).rflags = s.rflags := rfl
@[simp] theorem completed_cr0 (s : State) (dst : VReg) (x : ZmmValue) (sig : Signals) (len : Nat) :
    (s.completed dst x sig len).cr0 = s.cr0 := rfl
@[simp] theorem completed_cr2 (s : State) (dst : VReg) (x : ZmmValue) (sig : Signals) (len : Nat) :
    (s.completed dst x sig len).cr2 = s.cr2 := rfl
@[simp] theorem completed_cr4 (s : State) (dst : VReg) (x : ZmmValue) (sig : Signals) (len : Nat) :
    (s.completed dst x sig len).cr4 = s.cr4 := rfl
@[simp] theorem completed_xcr0 (s : State) (dst : VReg) (x : ZmmValue) (sig : Signals) (len : Nat) :
    (s.completed dst x sig len).xcr0 = s.xcr0 := rfl
@[simp] theorem completed_cpl (s : State) (dst : VReg) (x : ZmmValue) (sig : Signals) (len : Nat) :
    (s.completed dst x sig len).cpl = s.cpl := rfl
@[simp] theorem completed_mode (s : State) (dst : VReg) (x : ZmmValue) (sig : Signals) (len : Nat) :
    (s.completed dst x sig len).mode = s.mode := rfl
@[simp] theorem completed_mem (s : State) (dst : VReg) (x : ZmmValue) (sig : Signals) (len : Nat) :
    (s.completed dst x sig len).mem = s.mem := rfl
@[simp] theorem completed_regions (s : State) (dst : VReg) (x : ZmmValue) (sig : Signals) (len : Nat) :
    (s.completed dst x sig len).regions = s.regions := rfl
@[simp] theorem completed_breakpoints (s : State) (dst : VReg) (x : ZmmValue) (sig : Signals) (len : Nat) :
    (s.completed dst x sig len).breakpoints = s.breakpoints := rfl
@[simp] theorem completed_proc (s : State) (dst : VReg) (x : ZmmValue) (sig : Signals) (len : Nat) :
    (s.completed dst x sig len).proc = s.proc := rfl

/-- What `finish` leaves when it completes is `completed`. -/
theorem completed_eq (s : State) (dst : VReg) (x : ZmmValue) (sig : Signals) (len : Nat) :
    ((s.setMxcsr (recordSignals sig s.mxcsr)).setVreg dst x).advance len = s.completed dst x sig len := rfl

/-! ## Register reads after writes -/

@[simp] theorem vreg_setVreg_same (s : State) (n : VReg) (x : ZmmValue) : (s.setVreg n x).vreg n = x := by
  simp [State.vreg, State.setVreg]

theorem vreg_setVreg_other (s : State) (n m : VReg) (x : ZmmValue) (h : m ≠ n) :
    (s.setVreg n x).vreg m = s.vreg m := by
  have : n.toNat ≠ m.toNat := fun e => h (BitVec.eq_of_toNat_eq e.symm)
  simp [State.vreg, State.setVreg, Vector.getElem_set_ne _ _ this]

@[simp] theorem vreg_setMxcsr (s : State) (n : VReg) (m : BitVec 32) : (s.setMxcsr m).vreg n = s.vreg n := rfl
@[simp] theorem vreg_advance (s : State) (n : VReg) (len : Nat) : (s.advance len).vreg n = s.vreg n := rfl

@[simp] theorem vreg_completed_same (s : State) (dst : VReg) (x : ZmmValue) (sig : Signals) (len : Nat) :
    (s.completed dst x sig len).vreg dst = x := by
  simp [State.vreg, State.completed]

theorem vreg_completed_other (s : State) (dst m : VReg) (x : ZmmValue) (sig : Signals) (len : Nat) (h : m ≠ dst) :
    (s.completed dst x sig len).vreg m = s.vreg m := by
  have : dst.toNat ≠ m.toNat := fun e => h (BitVec.eq_of_toNat_eq e.symm)
  simp [State.vreg, State.completed, Vector.getElem_set_ne _ _ this]

/-! ## What writing MXCSR leaves readable -/

@[simp] theorem greg_setMxcsr (s : State) (r : Gpr) (m : BitVec 32) : (s.setMxcsr m).greg r = s.greg r := rfl
@[simp] theorem kreg_setMxcsr (s : State) (r : KReg) (m : BitVec 32) : (s.setMxcsr m).kreg r = s.kreg r := rfl
@[simp] theorem readByte_setMxcsr (s : State) (a : Quad) (m : BitVec 32) : (s.setMxcsr m).readByte a = s.readByte a := rfl
@[simp] theorem greg_completed (s : State) (r : Gpr) (dst : VReg) (x : ZmmValue) (sig : Signals) (len : Nat) :
    (s.completed dst x sig len).greg r = s.greg r := rfl
@[simp] theorem kreg_completed (s : State) (r : KReg) (dst : VReg) (x : ZmmValue) (sig : Signals) (len : Nat) :
    (s.completed dst x sig len).kreg r = s.kreg r := rfl
@[simp] theorem readByte_completed (s : State) (a : Quad) (dst : VReg) (x : ZmmValue) (sig : Signals) (len : Nat) :
    (s.completed dst x sig len).readByte a = s.readByte a := rfl

end Sys2Proof.Machine
end

