-- ==== Sys2Proof/Laws/Ops.lean ====
section
/-!
SUPPORT. What each shared operation can do, said once: the class check, the data read, the source value, the end of the
shared step, the shared step itself, the fetch and the step.
-/
namespace Sys2Proof.Machine

/-- Every instruction is the shared step on its fields. -/
theorem exec_eq (i : Instr) (s : State) : exec i s = convertPacked (operationOf i) s := by
  cases i <;> rfl

/-! ## Class check -/

theorem classCheck_none_iff (s : State) (f : Form) :
    s.classCheck f = none ↔ s.featuresPresent f = true ∧ s.stateForbids f = false ∧ s.cr0TS = false := by
  unfold State.classCheck
  cases s.featuresPresent f <;> cases s.stateForbids f <;> cases s.cr0TS <;> simp

/-- Where the class check faults, it is `#UD` or `#NM`. -/
theorem classCheck_some (s : State) (f : Form) (e : Exception) (h : s.classCheck f = some e) :
    e = .invalidOpcode ∨ e = .deviceNotAvailable := by
  unfold State.classCheck at h
  split at h
  · exact .inl (Option.some.inj h).symm
  · split at h
    · exact .inr (Option.some.inj h).symm
    · cases h

theorem classCheck_of_premises (s : State) (f : Form) (h : s.premises f) : s.classCheck f = none := by
  obtain ⟨hm, hf, ht, hl, hv, he⟩ := h
  rw [classCheck_none_iff]
  refine ⟨by simpa [State.featuresPresent] using hf, ?_, ht⟩
  have hm1 : (s.mode == Mode.realAddress) = false := by rw [hm]; rfl
  have hm2 : (s.mode == Mode.virtual8086) = false := by rw [hm]; rfl
  cases f <;> simp_all [State.stateForbids, Form.isEvex]

theorem classCheck_setMxcsr (s : State) (f : Form) (m : BitVec 32) :
    (s.setMxcsr m).classCheck f = s.classCheck f := by
  cases f <;> rfl

/-! ## The data read -/

/-- If a data read answers a value, every byte was canonical, no device and no breakpoint, and readable; the value is
the bytes, little-endian. -/
theorem memRead_ok (s : State) (st : Bool) (ea : Quad) (n x : Nat) (h : s.memRead st ea n = .ok x) :
    (∀ a ∈ operandBytes ea n, canonical s.proc.linear a = true ∧ s.inRegion .sideEffects a = false ∧
      a ∉ s.breakpoints ∧ (s.readByte a).isSome = true) ∧
    s.misaligned ea n = false ∧ x = littleEndian ((operandBytes ea n).map s.byteAt) := by
  unfold State.memRead at h
  split at h
  · cases h
  · split at h
    · cases h
    · split at h
      · cases h
      · rename_i h1 h2 h3
        split at h
        · cases h
        · rename_i hp
          unfold State.protection at hp
          split at hp
          · rename_i hu hm
            refine ⟨fun a ha => ?_, hm, ?_⟩
            · simp only [List.any_eq_true, not_exists, not_and, Bool.not_eq_true] at h1 h2 h3
              refine ⟨by simpa using h1 a ha, h2 a ha, by simpa using h3 a ha, ?_⟩
              have := List.filter_eq_nil_iff.mp hu a ha
              cases hb : s.readByte a <;> simp_all
            · cases h
              rfl
          · cases hp
          · cases hp
          · cases hp

/-- A readable operand is read. -/
theorem memRead_of_readable (s : State) (st : Bool) (ea : Quad) (n : Nat) (h : s.readable ea n) :
    s.memRead st ea n = .ok (littleEndian ((operandBytes ea n).map s.byteAt)) := by
  obtain ⟨hb, hal⟩ := h
  have hmem : ∀ a ∈ operandBytes ea n, canonical s.proc.linear a = true ∧ s.inRegion .sideEffects a = false ∧
      a ∉ s.breakpoints ∧ (s.readByte a).isSome = true := by
    intro a ha
    simp only [operandBytes, List.mem_map, List.mem_range] at ha
    obtain ⟨i, hi, rfl⟩ := ha
    exact hb i hi
  have h1 : (operandBytes ea n).any (fun a => !canonical s.proc.linear a) = false := by
    simp only [List.any_eq_false]
    intro a ha
    simp [(hmem a ha).1]
  have h2 : (operandBytes ea n).any (s.inRegion .sideEffects) = false := by
    simp only [List.any_eq_false]
    intro a ha
    simp [(hmem a ha).2.1]
  have h3 : (operandBytes ea n).any (fun a => s.breakpoints.contains a) = false := by
    simp only [List.any_eq_false]
    intro a ha
    simpa using (hmem a ha).2.2.1
  have hu : s.unreadable ea n = [] := by
    refine List.filter_eq_nil_iff.mpr fun a ha => ?_
    have := (hmem a ha).2.2.2
    cases hb : s.readByte a <;> simp_all
  have hm : s.misaligned ea n = false := by
    unfold State.misaligned
    cases hc : s.alignmentChecking
    · rfl
    · simp [hal hc]
  have hp : s.protection ea n = none := by
    unfold State.protection
    rw [hu, hm]
  simp only [State.memRead, h1, h2, h3, hp]
  rfl

theorem memRead_setMxcsr (s : State) (m : BitVec 32) (st : Bool) (ea : Quad) (n : Nat) :
    (s.setMxcsr m).memRead st ea n = s.memRead st ea n := rfl

/-- Whether the access is SS-relative matters to a non-canonical address alone, so not to a value read. -/
theorem memRead_ok_stack (s : State) (st st' : Bool) (ea : Quad) (n x : Nat) (h : s.memRead st ea n = .ok x) :
    s.memRead st' ea n = .ok x := by
  unfold State.memRead at h ⊢
  split at h
  · cases h
  · rename_i h1
    rw [if_neg h1]
    exact h

/-- A data read that faults raises a memory-source exception. -/
theorem memRead_fault (s : State) (st : Bool) (ea : Quad) (n : Nat) (e : Exception) (h : s.memRead st ea n = .fault e) :
    e = .stackFault ∨ e = .generalProtection ∨ e = .alignmentCheck ∨ ∃ c a, e = .pageFault c a := by
  unfold State.memRead at h
  split at h
  · cases st <;> cases h <;> simp
  · split at h
    · cases h
    · split at h
      · cases h
      · split at h
        · rename_i e' hp
          cases h
          unfold State.protection at hp
          split at hp
          · cases hp
          · cases hp
            simp
          · cases hp
            exact .inr (.inr (.inr ⟨_, _, rfl⟩))
          · cases hp
            split
            · simp
            · exact .inr (.inr (.inr ⟨_, _, rfl⟩))
        · cases h

/-! ## Little-endian words -/

theorem littleEndian_append (xs ys : List Byte) :
    littleEndian (xs ++ ys) = littleEndian xs + 256 ^ xs.length * littleEndian ys := by
  induction xs with
  | nil => simp [littleEndian]
  | cons b xs ih =>
    simp only [List.cons_append, littleEndian, ih, List.length_cons, pow_succ]
    ring

theorem littleEndian_lt (xs : List Byte) : littleEndian xs < 256 ^ xs.length := by
  induction xs with
  | nil => simp [littleEndian]
  | cons b xs ih =>
    have hb : b.toNat < 256 := b.isLt
    simp only [littleEndian, List.length_cons, pow_succ]
    omega

/-- Four bytes as a word. -/
theorem word_toNat (b0 b1 b2 b3 : Byte) :
    (b3 ++ b2 ++ b1 ++ b0 : Single).toNat = littleEndian [b0, b1, b2, b3] := by
  have h0 : b0.toNat < 256 := b0.isLt
  have h1 : b1.toNat < 256 := b1.isLt
  have h2 : b2.toNat < 256 := b2.isLt
  simp only [BitVec.toNat_append, littleEndian]
  rw [← Nat.shiftLeft_add_eq_or_of_lt (b := b0.toNat) h0, ← Nat.shiftLeft_add_eq_or_of_lt (b := b1.toNat) h1,
    ← Nat.shiftLeft_add_eq_or_of_lt (b := b2.toNat) h2]
  simp only [Nat.shiftLeft_eq]
  omega

/-- Word `j` of a byte string read as one little-endian number (R62). -/
theorem srcLane_littleEndian (f : Nat → Byte) (n j : Nat) (hn : n ≤ 32) (hj : 4 * j + 4 ≤ n) :
    srcLane (BitVec.ofNat 256 (littleEndian ((List.range n).map f))) j =
      (f (4 * j + 3) ++ f (4 * j + 2) ++ f (4 * j + 1) ++ f (4 * j) : Single) := by
  apply BitVec.eq_of_toNat_eq
  rw [word_toNat]
  have hsplit : (List.range n).map f =
      (List.range (4 * j)).map f ++ ([f (4 * j), f (4 * j + 1), f (4 * j + 2), f (4 * j + 3)] ++
        (List.range (n - (4 * j + 4))).map (fun i => f (4 * j + 4 + i))) := by
    conv_lhs => rw [show n = 4 * j + (4 + (n - (4 * j + 4))) by omega, List.range_add, List.map_append]
    congr 1
    rw [List.range_add]
    simp [List.range_succ, Function.comp_def, Nat.add_assoc]
  have hlt : littleEndian ((List.range n).map f) < 2 ^ 256 := by
    refine lt_of_lt_of_le (littleEndian_lt _) ?_
    rw [List.length_map, List.length_range]
    calc 256 ^ n ≤ 256 ^ 32 := Nat.pow_le_pow_right (by norm_num) hn
      _ = 2 ^ 256 := by norm_num
  simp only [srcLane, BitVec.extractLsb'_toNat, BitVec.toNat_ofNat, Nat.mod_eq_of_lt hlt]
  rw [hsplit, littleEndian_append, littleEndian_append, List.length_map, List.length_range, Nat.shiftRight_eq_div_pow]
  have hp : (2 : Nat) ^ (32 * j) = 256 ^ (4 * j) := by
    rw [show (256 : Nat) = 2 ^ 8 by norm_num, ← pow_mul]
    congr 1
    omega
  have hA := littleEndian_lt ((List.range (4 * j)).map f)
  rw [List.length_map, List.length_range] at hA
  rw [hp, Nat.add_mul_div_left _ _ (by positivity), Nat.div_eq_of_lt hA, Nat.zero_add]
  simp only [List.length_cons, List.length_nil]
  have hB := littleEndian_lt [f (4 * j), f (4 * j + 1), f (4 * j + 2), f (4 * j + 3)]
  simp only [List.length_cons, List.length_nil] at hB
  rw [show (256 : Nat) ^ (0 + 1 + 1 + 1 + 1) = 2 ^ 32 by norm_num] at hB ⊢
  rw [Nat.add_mul_mod_self_left, Nat.mod_eq_of_lt hB]

/-! ## The end of the shared step -/

theorem active_eq_maskBit (s : State) (c : Operation) (j : Nat) : s.active c j = s.maskBit c.aaa j := by
  unfold State.active State.maskBit
  by_cases h : c.aaa = 0
  · simp [h]
  · rw [if_neg h, beq_eq_false_iff_ne.mpr h, Bool.false_or]

theorem unmasked_false_iff (sig : Signals) (m : BitVec 32) : unmasked sig m = false ↔ allMasked sig m := by
  obtain ⟨i, d⟩ := sig
  cases i <;> cases d <;> simp [unmasked, allMasked]

/-- Where every signalled exception is masked, the instruction completes. -/
theorem finish_masked (s : State) (c : Operation) (src : SrcValue) (h : allMasked (s.signals c src) s.mxcsr) :
    s.finish c src = .next (s.completed c.dst (s.destValue c src) (s.signals c src) c.len) := by
  simp only [State.finish, (unmasked_false_iff _ _).mpr h]
  rfl

/-- Where one is not, the flags are set and nothing else changes. -/
theorem finish_unmasked (s : State) (c : Operation) (src : SrcValue) (h : ¬ allMasked (s.signals c src) s.mxcsr) :
    s.finish c src = .fault (.raised s.simdException (s.setMxcsr (recordSignals (s.signals c src) s.mxcsr))) := by
  have : unmasked (s.signals c src) s.mxcsr = true := by
    by_contra hu
    exact h ((unmasked_false_iff _ _).mp (by simpa using hu))
  simp [State.finish, this, raise]

/-! ## The shared step, said once -/

/-- If the shared step answers a next state, this is how. -/
theorem convertPacked_next (c : Operation) (s t : State) (h : convertPacked c s = .next t) :
    c.vvvv = 15 ∧ c.reserved = none ∧ s.classCheck c.form = none ∧
      ∃ src, s.readSource c = .ok src ∧ allMasked (s.signals c src) s.mxcsr ∧
        t = s.completed c.dst (s.destValue c src) (s.signals c src) c.len := by
  unfold convertPacked at h
  split at h
  · cases h
  · rename_i hv
    split at h
    · cases h
    · rename_i hr
      split at h
      · cases h
      · rename_i hc
        split at h
        · rename_i src hs
          by_cases hm : allMasked (s.signals c src) s.mxcsr
          · rw [finish_masked _ _ _ hm] at h
            cases h
            exact ⟨by simpa using hv, hr, hc, src, hs, hm, rfl⟩
          · rw [finish_unmasked _ _ _ hm] at h
            cases h
        · cases h
        · cases h

/-- If it faults, either nothing has changed, or the fault is numeric and only the flags have. -/
theorem convertPacked_fault (c : Operation) (s t : State) (e : Exception)
    (h : convertPacked c s = .fault (.raised e t)) :
    (t = s ∧ (c.vvvv ≠ 15 ∧ e = .invalidOpcode ∨ s.classCheck c.form = some e ∨ s.readSource c = .fault e)) ∨
    (∃ src, s.readSource c = .ok src ∧ ¬ allMasked (s.signals c src) s.mxcsr ∧ e = s.simdException ∧
      t = s.setMxcsr (recordSignals (s.signals c src) s.mxcsr)) := by
  unfold convertPacked raise at h
  split at h
  · rename_i hv
    cases h
    exact .inl ⟨rfl, .inl ⟨hv, rfl⟩⟩
  · split at h
    · cases h
    · split at h
      · rename_i hc
        cases h
        exact .inl ⟨rfl, .inr (.inl hc)⟩
      · split at h
        · rename_i src hs
          by_cases hm : allMasked (s.signals c src) s.mxcsr
          · rw [finish_masked _ _ _ hm] at h
            cases h
          · rw [finish_unmasked _ _ _ hm] at h
            cases h
            exact .inr ⟨src, hs, hm, rfl, rfl⟩
        · rename_i hs
          cases h
          exact .inl ⟨rfl, .inr (.inr hs)⟩
        · cases h

/-- The shared step past its checks. -/
theorem convertPacked_ready (c : Operation) (s : State) (src : SrcValue) (hv : c.vvvv = 15) (hr : c.reserved = none)
    (hc : s.classCheck c.form = none) (hs : s.readSource c = .ok src) : convertPacked c s = s.finish c src := by
  simp [convertPacked, hv, hr, hc, hs]

/-! ## The step -/

/-- If a step answers a next state, it fetched an instruction under the launch conditions and executed it. -/
theorem step_next (s t : State) (h : step s = .next t) :
    ∃ i, s.fetchDecode = .run i ∧ exec i s = .next t := by
  unfold step at h
  split at h
  · rename_i i hi
    exact ⟨i, hi, h⟩
  · cases h
  · cases h

/-- What a fetch that finds an instruction says of the state. -/
theorem fetchDecode_run (s : State) (i : Instr) (h : s.fetchDecode = .run i) :
    s.mode = .mode64 ∧ s.flagTF = false ∧ s.rip ∉ s.breakpoints ∧
      (∃ rest, decode s.proc.saeLL s.fetchBytes = .instr i rest) ∧
      inOneHalf s.proc.linear s.rip i.length = true := by
  unfold State.fetchDecode at h
  split at h
  · cases h
  · rename_i hm
    split at h
    · cases h
    · rename_i ht
      split at h
      · cases h
      · rename_i hb
        unfold State.decodeAt at h
        split at h
        · cases h
        · cases h
        · split at h <;> cases h
        · rename_i j rest hd
          split at h
          · rename_i ho
            cases h
            exact ⟨by simpa using hm, by simpa using ht, by simpa using hb, ⟨rest, hd⟩, ho⟩
          · cases h

theorem operationOf_len (i : Instr) : (operationOf i).len = i.length := by
  cases i <;> rfl

end Sys2Proof.Machine
end

