-- ==== Sys2Proof/Laws/Convert.lean ====
section
/-!
SUPPORT. The shared step in the words of Safety.lean: the elements of a register source, of a memory source and of a
broadcast, the signals, the destination, and the step of an instruction past its checks.
-/
namespace Sys2Proof.Machine

/-- A well-formed instruction with `vvvv = 1111b` has no reserved combination. -/
theorem reserved_of_wf (i : Instr) (h : i.wf = true) (hv : (operationOf i).vvvv = 15) :
    (operationOf i).reserved = none := by
  cases i with
  | cvtps2pd p rex dst src => rfl
  | vcvtps2pd128Vex2 p v dst src => rfl
  | vcvtps2pd256Vex2 p v dst src => rfl
  | vcvtps2pd128Vex3 p v dst src => rfl
  | vcvtps2pd256Vex3 p v dst src => rfl
  | vcvtps2pd128Evex p v a z b dst src =>
    have hv' : v = 15 := hv
    subst hv'
    simp only [Instr.wf, evexMaskWf, evexSaeWf, Bool.and_eq_true] at h
    cases b <;> cases hr : src.isReg <;> cases z <;>
      simp_all [operationOf, opEvex, Operation.reserved, Operation.sae]
  | vcvtps2pd256Evex p v a z b dst src =>
    have hv' : v = 15 := hv
    subst hv'
    simp only [Instr.wf, evexMaskWf, evexSaeWf, Bool.and_eq_true] at h
    cases b <;> cases hr : src.isReg <;> cases z <;>
      simp_all [operationOf, opEvex, Operation.reserved, Operation.sae]
  | vcvtps2pd512Evex p v a z b dst src =>
    have hv' : v = 15 := hv
    subst hv'
    simp only [Instr.wf, evexMaskWf, Bool.and_eq_true] at h
    cases z <;> simp_all [operationOf, opEvex, Operation.reserved]

/-- An instruction past its checks, its source value known. -/
theorem exec_ready (i : Instr) (s : State) (src : SrcValue) (hv : (operationOf i).vvvv = 15)
    (hr : (operationOf i).reserved = none) (hp : s.premises (operationOf i).form)
    (hs : s.readSource (operationOf i) = .ok src) : exec i s = s.finish (operationOf i) src := by
  rw [exec_eq]
  exact convertPacked_ready _ _ _ hv hr (classCheck_of_premises _ _ hp) hs

/-- The signals of the shared step. -/
theorem signals_eq (s : State) (c : Operation) (src : SrcValue) :
    s.signals c src =
      if c.sae then ⟨false, false⟩ else elementSignals c.form.kl (s.maskBit c.aaa) (srcLane src) s.daz := by
  unfold State.signals elementSignals State.convertLane
  simp only [active_eq_maskBit]
  cases c.sae <;> simp

/-- The elements of the new destination value. -/
theorem lanesAre_destValue (s : State) (c : Operation) (src : SrcValue) :
    lanesAre c.form.kl (s.maskBit c.aaa) c.z (srcLane src) s.daz (s.vreg c.dst) (s.destValue c src) := by
  intro j hj
  rw [lane_destValue _ _ _ _ hj]
  simp only [State.destLane, active_eq_maskBit, State.convertLane]

/-- What the signals and the elements of a destination depend on: the source elements below `kl`. -/
theorem elementSignals_congr (kl : Nat) (on : Nat → Bool) (w w' : Nat → Single) (daz : Bool)
    (h : ∀ j < kl, w j = w' j) : elementSignals kl on w daz = elementSignals kl on w' daz := by
  have key : ∀ g : Single → Bool, (List.range kl).any (fun j => on j && g (w j)) =
      (List.range kl).any (fun j => on j && g (w' j)) := by
    intro g
    rw [Bool.eq_iff_iff]
    simp only [List.any_eq_true, List.mem_range]
    constructor <;> rintro ⟨j, hj, hg⟩ <;> exact ⟨j, hj, by simpa [h j hj] using hg⟩
  simp only [elementSignals, key (fun x => (cvtS2D x daz).ie), key (fun x => (cvtS2D x daz).de)]

theorem lanesAre_congr (kl : Nat) (on : Nat → Bool) (z : Bool) (w w' : Nat → Single) (daz : Bool) (old x : ZmmValue)
    (h : ∀ j < kl, w j = w' j) (hl : lanesAre kl on z w daz old x) : lanesAre kl on z w' daz old x := by
  intro j hj
  rw [← h j hj]
  exact hl j hj

/-- Element `j` of a register source. -/
theorem srcLane_regSource (s : State) (f : Form) (n : VReg) (j : Nat) (hj : j < f.kl) :
    srcLane (s.regSource f n) j = s.regWord n j := by
  have hkl := kl_le f
  have hvl := vl_eq f
  apply BitVec.eq_of_getLsbD_eq
  intro i hi
  have h1 : 32 * j + i < f.vl / 2 := by omega
  have h2 : 32 * j + i < 256 := by omega
  simp [srcLane, State.regSource, State.regWord, hi, h1, h2]

/-- Element `j` of a memory source, not broadcast. -/
theorem srcLane_memValue (s : State) (c : Operation) (ea : Quad) (j : Nat) (hb : c.broadcast = false)
    (hj : j < c.form.kl) :
    srcLane (c.memValue (littleEndian ((operandBytes ea c.memBytes).map s.byteAt))) j = s.memWord ea j := by
  have hkl := kl_le c.form
  have hvl := vl_eq c.form
  have hn : c.memBytes = c.form.vl / 16 := by simp [Operation.memBytes, hb]
  rw [Operation.memValue, hb, if_neg (by decide), operandBytes, List.map_map,
    srcLane_littleEndian _ _ j (by omega) (by omega)]
  simp only [Function.comp_apply, State.memWord, State.wordAt]
  have e : ∀ k : Nat, ea + BitVec.ofNat 64 (4 * j + k) = ea + BitVec.ofNat 64 (4 * j) + BitVec.ofNat 64 k := by
    intro k
    rw [BitVec.ofNat_add, BitVec.add_assoc]
  rw [e 3, e 2, e 1]
  rfl

/-- Every element of a broadcast source. -/
theorem srcLane_broadcast (s : State) (c : Operation) (ea : Quad) (j : Nat) (hb : c.broadcast = true)
    (hj : j < c.form.kl) :
    srcLane (c.memValue (littleEndian ((operandBytes ea c.memBytes).map s.byteAt))) j = s.wordAt ea := by
  have hkl := kl_le c.form
  have hn : c.memBytes = 4 := by simp [Operation.memBytes, hb]
  have hw : BitVec.ofNat 32 (littleEndian ((operandBytes ea 4).map s.byteAt)) = s.wordAt ea := by
    apply BitVec.eq_of_toNat_eq
    rw [State.wordAt, word_toNat, BitVec.toNat_ofNat]
    have e : (operandBytes ea 4).map s.byteAt =
        [s.byteAt ea, s.byteAt (ea + 1), s.byteAt (ea + 2), s.byteAt (ea + 3)] := by
      simp [operandBytes, List.range_succ]
    rw [e]
    refine Nat.mod_eq_of_lt (lt_of_lt_of_le (littleEndian_lt _) ?_)
    norm_num
  rw [hn, Operation.memValue, if_pos hb, hw, broadcastWord]
  apply BitVec.eq_of_getLsbD_eq
  intro i hi
  have h1 : 32 * j + i < 256 := by omega
  have h2 : 32 * j + i < 32 * c.form.kl := by omega
  have h3 : (32 * j + i) % 32 = i := by omega
  simp [srcLane, hi, h1, h2, h3]

end Sys2Proof.Machine
end

