-- ==== Sys2Proof/Laws/Decode.lean ====
section
/-!
SUPPORT. What the decoder does with the legacy prefixes, said once: any spelling of them leaves it at the bytes after them
with those prefixes collected (spec/30_encoding.md R94, R135 step 1).
-/
namespace Sys2Proof

@[simp] theorem segmentOf_byte (sg : Segment) : segmentOf sg.byte = some sg := by cases sg <;> decide

@[simp] theorem segmentOf_addr32 : segmentOf 0x67#8 = none := by decide

theorem decodeFrom_seg (pol : SaeLLPolicy) (p : Prefixes) (sg : Segment) (bs : List Byte) (h : p.seg = none) :
    decodeFrom pol p (sg.byte :: bs) = decodeFrom pol { p with seg := some sg } bs := by
  rw [decodeFrom]
  simp [h]

theorem decodeFrom_addr32 (pol : SaeLLPolicy) (p : Prefixes) (bs : List Byte) (h : p.addr32 = false) :
    decodeFrom pol p (0x67#8 :: bs) = decodeFrom pol { p with addr32 := true } bs := by
  rw [decodeFrom]
  simp [h]

/-- Any spelling of the prefixes is collected. -/
theorem decode_spelledBy (pol : SaeLLPolicy) (p : Prefixes) (pre bs : List Byte) (h : p.spelledBy pre) :
    decode pol (pre ++ bs) = decodeFrom pol p bs := by
  obtain ⟨seg, a⟩ := p
  unfold decode
  rcases h with rfl | rfl <;> cases seg <;> cases a <;>
    simp [Prefixes.segBytes, Prefixes.addrBytes, decodeFrom_seg, decodeFrom_addr32, Prefixes.empty]

/-- The canonical spelling is one. -/
theorem spelledBy_encode (p : Prefixes) : p.spelledBy p.encode := .inl rfl

/-- Every spelling has the same number of bytes. -/
theorem spelledBy_length (p : Prefixes) (pre : List Byte) (h : p.spelledBy pre) : pre.length = p.count := by
  obtain ⟨seg, a⟩ := p
  rcases h with rfl | rfl <;> cases seg <;> cases a <;> rfl

end Sys2Proof
end

