-- ==== Sys2Proof/Laws/Memory.lean ====
section
/-!
SUPPORT. Memory: a write is read back, leaves every other address alone, and keeps the canonical form; two memories in
canonical form that read alike are equal.
-/
namespace Sys2Proof.Machine

@[simp] theorem read_write_same (m : List Host.Cell) (a : Nat) (b : Byte) :
    Memory.read (Memory.write a b m) a = some b := by
  induction m with
  | nil => simp [Memory.write, Memory.read]
  | cons c m ih =>
    obtain ⟨k, x⟩ := c
    simp only [Memory.write]
    split
    · simp [Memory.read]
    · split
      · simp [Memory.read]
      · rename_i h
        simp [Memory.read, h, ih]

theorem read_write_other (m : List Host.Cell) (a a' : Nat) (b : Byte) (h : a' ≠ a) :
    Memory.read (Memory.write a b m) a' = Memory.read m a' := by
  induction m with
  | nil => simp [Memory.write, Memory.read, h]
  | cons c m ih =>
    obtain ⟨k, x⟩ := c
    simp only [Memory.write]
    split
    · simp [Memory.read, h]
    · split
      · rename_i _ e
        subst e
        simp [Memory.read, h]
      · simp [Memory.read, ih]

theorem wfFrom_mono (m : List Host.Cell) (lo hi : Nat) (h : lo ≤ hi) (w : Memory.wfFrom hi m = true) :
    Memory.wfFrom lo m = true := by
  cases m with
  | nil => rfl
  | cons c m =>
    obtain ⟨k, x⟩ := c
    simp only [Memory.wfFrom, Bool.and_eq_true, decide_eq_true_eq] at w ⊢
    exact ⟨⟨by omega, w.1.2⟩, w.2⟩

theorem wfFrom_write (m : List Host.Cell) (lo a : Nat) (b : Byte) (hlo : lo ≤ a) (ha : a < 2 ^ 64)
    (w : Memory.wfFrom lo m = true) : Memory.wfFrom lo (Memory.write a b m) = true := by
  induction m generalizing lo with
  | nil =>
    simp only [Memory.write, Memory.wfFrom, Bool.and_true, Bool.and_eq_true, decide_eq_true_eq]
    exact ⟨hlo, ha⟩
  | cons c m ih =>
    obtain ⟨k, x⟩ := c
    simp only [Memory.wfFrom, Bool.and_eq_true, decide_eq_true_eq] at w
    simp only [Memory.write]
    split
    · rename_i hk
      simp only [Memory.wfFrom, Bool.and_eq_true, decide_eq_true_eq]
      exact ⟨⟨hlo, ha⟩, ⟨by omega, w.1.2⟩, w.2⟩
    · split
      · rename_i _ e
        subst e
        simp only [Memory.wfFrom, Bool.and_eq_true, decide_eq_true_eq]
        exact w
      · simp only [Memory.wfFrom, Bool.and_eq_true, decide_eq_true_eq]
        exact ⟨w.1, ih (k + 1) (by omega) w.2⟩

/-- Every store keeps the canonical form. -/
theorem wf_write (m : List Host.Cell) (a : Nat) (b : Byte) (ha : a < 2 ^ 64) (w : Memory.wf m = true) :
    Memory.wf (Memory.write a b m) = true :=
  wfFrom_write m 0 a b (Nat.zero_le _) ha w

/-- Every store of bytes keeps the canonical form. -/
theorem wf_writeBytes (bs : List Byte) (m : List Host.Cell) (a : Quad) (w : Memory.wf m = true) :
    Memory.wf (Memory.writeBytes m a bs) = true := by
  induction bs generalizing m a with
  | nil => exact w
  | cons b bs ih => exact ih _ _ (wf_write m a.toNat b a.isLt w)

theorem read_lt_none (m : List Host.Cell) (lo a : Nat) (h : a < lo) (w : Memory.wfFrom lo m = true) :
    Memory.read m a = none := by
  induction m generalizing lo with
  | nil => rfl
  | cons c m ih =>
    obtain ⟨k, x⟩ := c
    simp only [Memory.wfFrom, Bool.and_eq_true, decide_eq_true_eq] at w
    have : a ≠ k := by omega
    simp only [Memory.read, this, if_false]
    exact ih (k + 1) (by omega) w.2

theorem wfFrom_ext (m m' : List Host.Cell) (lo : Nat) (w : Memory.wfFrom lo m = true) (w' : Memory.wfFrom lo m' = true)
    (h : ∀ a, Memory.read m a = Memory.read m' a) : m = m' := by
  induction m generalizing m' lo with
  | nil =>
    cases m' with
    | nil => rfl
    | cons c m' => simpa [Memory.read] using h c.1
  | cons c m ih =>
    obtain ⟨k, x⟩ := c
    cases m' with
    | nil => simpa [Memory.read] using h k
    | cons c' m' =>
      obtain ⟨k', x'⟩ := c'
      simp only [Memory.wfFrom, Bool.and_eq_true, decide_eq_true_eq] at w w'
      have hk : k = k' := by
        rcases Nat.lt_trichotomy k k' with hlt | heq | hgt
        · have := h k
          simp only [Memory.read, if_true, Nat.ne_of_lt hlt, if_false] at this
          rw [read_lt_none m' (k' + 1) k (by omega) w'.2] at this
          cases this
        · exact heq
        · have := h k'
          simp only [Memory.read, if_true, Nat.ne_of_lt hgt, if_false] at this
          rw [read_lt_none m (k + 1) k' (by omega) w.2] at this
          cases this
      subst hk
      have hx : x = x' := by simpa [Memory.read] using h k
      subst hx
      refine congrArg _ (ih m' (k + 1) w.2 w'.2 fun a => ?_)
      by_cases e : a = k
      · subst e
        rw [read_lt_none m (a + 1) a (by omega) w.2, read_lt_none m' (a + 1) a (by omega) w'.2]
      · simpa [Memory.read, e] using h a

/-- Equal memories are equal data: two memories in canonical form that read alike are the same list. -/
theorem memory_ext (m m' : List Host.Cell) (w : Memory.wf m = true) (w' : Memory.wf m' = true)
    (h : ∀ a, Memory.read m a = Memory.read m' a) : m = m' :=
  wfFrom_ext m m' 0 w w' h

/-- Memory after RESET has the canonical form. -/
theorem reset_mem_wf : Memory.wf State.reset.mem = true := rfl

end Sys2Proof.Machine
end

