-- ==== Sys2Proof/Laws/PerInstr.lean ====
section
/-!
SUPPORT. A law of every instruction's fields, one lemma per constructor.
-/

/-- The fields the shared step gets: the length and the prefixes of the instruction; the length of the vector by the
row; and outside EVEX no writemask, no zeroing, no broadcast and no `sae` (spec/00_scope.md R8, spec/30_encoding.md
R118). -/
def Sys2Proof.Laws.OperationFields.Statement (i : Sys2Proof.Instr) : Prop :=
  (Sys2Proof.Machine.operationOf i).len = i.length ∧ (Sys2Proof.Machine.operationOf i).pre = i.prefixes ∧
    ((Sys2Proof.Machine.operationOf i).form.isEvex = true ↔ 5 ≤ i.rowIndex) ∧
    ((Sys2Proof.Machine.operationOf i).form.isEvex = false →
      (Sys2Proof.Machine.operationOf i).aaa = 0 ∧ (Sys2Proof.Machine.operationOf i).z = false ∧
      (Sys2Proof.Machine.operationOf i).b = false)

open Sys2Proof

theorem Sys2Proof.Laws.OperationFields.cvtps2pd (p : Prefixes) (rex : Bool) (dst : VReg) (src : Rm) :
    Sys2Proof.Laws.OperationFields.Statement (.cvtps2pd p rex dst src) :=
  ⟨rfl, rfl, ⟨nofun, nofun⟩, fun _ => ⟨rfl, rfl, rfl⟩⟩

theorem Sys2Proof.Laws.OperationFields.vcvtps2pd128Vex2 (p : Prefixes) (vvvv : BitVec 4) (dst : VReg) (src : Rm) :
    Sys2Proof.Laws.OperationFields.Statement (.vcvtps2pd128Vex2 p vvvv dst src) :=
  ⟨rfl, rfl, ⟨nofun, fun h => absurd h (by decide : ¬ 5 ≤ 1)⟩, fun _ => ⟨rfl, rfl, rfl⟩⟩

theorem Sys2Proof.Laws.OperationFields.vcvtps2pd256Vex2 (p : Prefixes) (vvvv : BitVec 4) (dst : VReg) (src : Rm) :
    Sys2Proof.Laws.OperationFields.Statement (.vcvtps2pd256Vex2 p vvvv dst src) :=
  ⟨rfl, rfl, ⟨nofun, fun h => absurd h (by decide : ¬ 5 ≤ 2)⟩, fun _ => ⟨rfl, rfl, rfl⟩⟩

theorem Sys2Proof.Laws.OperationFields.vcvtps2pd128Vex3 (p : Prefixes) (vvvv : BitVec 4) (dst : VReg) (src : Rm) :
    Sys2Proof.Laws.OperationFields.Statement (.vcvtps2pd128Vex3 p vvvv dst src) :=
  ⟨rfl, rfl, ⟨nofun, fun h => absurd h (by decide : ¬ 5 ≤ 3)⟩, fun _ => ⟨rfl, rfl, rfl⟩⟩

theorem Sys2Proof.Laws.OperationFields.vcvtps2pd256Vex3 (p : Prefixes) (vvvv : BitVec 4) (dst : VReg) (src : Rm) :
    Sys2Proof.Laws.OperationFields.Statement (.vcvtps2pd256Vex3 p vvvv dst src) :=
  ⟨rfl, rfl, ⟨nofun, fun h => absurd h (by decide : ¬ 5 ≤ 4)⟩, fun _ => ⟨rfl, rfl, rfl⟩⟩

theorem Sys2Proof.Laws.OperationFields.vcvtps2pd128Evex (p : Prefixes) (vvvv : BitVec 4) (aaa : KReg) (z b : Bool)
    (dst : VReg) (src : Rm) : Sys2Proof.Laws.OperationFields.Statement (.vcvtps2pd128Evex p vvvv aaa z b dst src) :=
  ⟨rfl, rfl, ⟨fun _ => (by decide : 5 ≤ 5), fun _ => rfl⟩, nofun⟩

theorem Sys2Proof.Laws.OperationFields.vcvtps2pd256Evex (p : Prefixes) (vvvv : BitVec 4) (aaa : KReg) (z b : Bool)
    (dst : VReg) (src : Rm) : Sys2Proof.Laws.OperationFields.Statement (.vcvtps2pd256Evex p vvvv aaa z b dst src) :=
  ⟨rfl, rfl, ⟨fun _ => (by decide : 5 ≤ 6), fun _ => rfl⟩, nofun⟩

theorem Sys2Proof.Laws.OperationFields.vcvtps2pd512Evex (p : Prefixes) (vvvv : BitVec 4) (aaa : KReg) (z b : Bool)
    (dst : VReg) (src : Rm) : Sys2Proof.Laws.OperationFields.Statement (.vcvtps2pd512Evex p vvvv aaa z b dst src) :=
  ⟨rfl, rfl, ⟨fun _ => (by decide : 5 ≤ 7), fun _ => rfl⟩, nofun⟩
end

