-- ==== Sys2Proof/Tests/Slice0.lean ====
section
/-!
SUPPORT. Tests: the smoke test of WellFormed, decoding from words written out from the encodings of
spec/30_encoding.md, one-step tests whose expected values are those of spec/95_test_vectors.md and of the worked
examples of spec/40_cvtps2pd.md, and a witness for the hypotheses of every statement.
-/
namespace Sys2Proof.Tests
open Sys2Proof Sys2Proof.Machine

-- One theorem after the other: each one in flight holds a thread's whole stack, and the check limits a process's memory.
set_option Elab.async false

/-! ## WellFormed refuses an ill-formed term of each kind -/

abbrev np : Prefixes := ⟨none, false⟩

theorem test_wf_base_needs_displacement : Instr.wf (.cvtps2pd np false 0 (.mem (.base 5 .none))) = false := by decide
theorem test_wf_base_needs_sib : Instr.wf (.cvtps2pd np true 0 (.mem (.base 12 .none))) = false := by decide
theorem test_wf_sib_base_needs_displacement :
    Instr.wf (.cvtps2pd np true 0 (.mem (.sib 0 1 13 .none))) = false := by decide
theorem test_wf_legacy_destination : Instr.wf (.cvtps2pd np true 16 (.reg 0)) = false := by decide
theorem test_wf_legacy_source : Instr.wf (.cvtps2pd np true 0 (.reg 16)) = false := by decide
theorem test_wf_legacy_destination_without_rex : Instr.wf (.cvtps2pd np false 8 (.reg 0)) = false := by decide
theorem test_wf_legacy_index_without_rex :
    Instr.wf (.cvtps2pd np false 0 (.mem (.sib 0 8 0 .none))) = false := by decide
theorem test_wf_legacy_base_without_rex :
    Instr.wf (.cvtps2pd np false 0 (.mem (.sib 0 0 8 .none))) = false := by decide
theorem test_wf_legacy_no_base_without_rex :
    Instr.wf (.cvtps2pd np false 0 (.mem (.sibNoBase 0 8 0))) = false := by decide
theorem test_wf_vex2_source : Instr.wf (.vcvtps2pd128Vex2 np 15 0 (.reg 8)) = false := by decide
theorem test_wf_vex2_base : Instr.wf (.vcvtps2pd256Vex2 np 15 0 (.mem (.base 8 .none))) = false := by decide
theorem test_wf_vex3_destination : Instr.wf (.vcvtps2pd128Vex3 np 15 16 (.reg 0)) = false := by decide
theorem test_wf_vex3_source : Instr.wf (.vcvtps2pd256Vex3 np 15 0 (.reg 16)) = false := by decide
theorem test_wf_evex_zeroing_without_mask :
    Instr.wf (.vcvtps2pd512Evex np 15 0 true false 0 (.reg 0)) = false := by decide
theorem test_wf_evex_sae_at_128 : Instr.wf (.vcvtps2pd128Evex np 15 1 false true 0 (.reg 0)) = false := by decide
theorem test_wf_evex_sae_at_256 : Instr.wf (.vcvtps2pd256Evex np 15 1 false true 0 (.reg 0)) = false := by decide
theorem test_wf_accepts_high_registers : Instr.wf (.vcvtps2pd512Evex np 15 7 true true 31 (.reg 31)) = true := by decide

/-! ## Decoding: words written out bit by bit from R95 to R101, R104, R108 -/

theorem test_decode_cvtps2pd :
    decode .refuse [0b00001111, 0b01011010, 0b11000001] = .instr (.cvtps2pd np false 0 (.reg 1)) [] := by decide
theorem test_decode_cvtps2pd_rex_fs_addr32 :
    decode .refuse [0x64, 0x67, 0b01000101, 0b00001111, 0b01011010, 0b11001010] =
      .instr (.cvtps2pd ⟨some .fs, true⟩ true 9 (.reg 10)) [] := by decide
theorem test_decode_vex2_128 :
    decode .refuse [0b11000101, 0b11111000, 0b01011010, 0b11000001] =
      .instr (.vcvtps2pd128Vex2 np 15 0 (.reg 1)) [] := by decide
theorem test_decode_vex2_256 :
    decode .refuse [0b11000101, 0b01111100, 0b01011010, 0b00000110] =
      .instr (.vcvtps2pd256Vex2 np 15 8 (.mem (.base 6 .none))) [] := by decide
theorem test_decode_vex3_128 :
    decode .refuse [0b11000100, 0b11000001, 0b11111000, 0b01011010, 0b11000001] =
      .instr (.vcvtps2pd128Vex3 np 15 0 (.reg 9)) [] := by decide
theorem test_decode_vex3_256 :
    decode .refuse [0b11000100, 0b11000001, 0b01111100, 0b01011010, 0b01101100, 0b11010001, 0b11111100] =
      .instr (.vcvtps2pd256Vex3 np 15 5 (.mem (.sib 3 2 9 (.disp8 0xFC)))) [] := by decide
theorem test_decode_evex_128 :
    decode .refuse [0b01100010, 0b11110001, 0b01111100, 0b10001011, 0b01011010, 0b01001000, 0b00000001] =
      .instr (.vcvtps2pd128Evex np 15 3 true false 1 (.mem (.base 0 (.disp8 1)))) [] := by decide
theorem test_decode_evex_256 :
    decode .refuse [0b01100010, 0b11110001, 0b01111100, 0b00111001, 0b01011010, 0b00100111] =
      .instr (.vcvtps2pd256Evex np 15 1 false true 4 (.mem (.base 7 .none))) [] := by decide
theorem test_decode_evex_512 :
    decode .refuse [0b01100010, 0b10000001, 0b01111100, 0b01001111, 0b01011010, 0b11001001] =
      .instr (.vcvtps2pd512Evex np 15 7 false false 17 (.reg 25)) [] := by decide
theorem test_decode_rip_relative :
    decode .refuse [0x0F, 0x5A, 0b00000101, 0x78, 0x56, 0x34, 0x12] =
      .instr (.cvtps2pd np false 0 (.mem (.ripRel 0x12345678))) [] := by decide
theorem test_decode_no_base :
    decode .refuse [0x0F, 0x5A, 0b00000100, 0b01100101, 1, 0, 0, 0, 0xCC] =
      .instr (.cvtps2pd np false 0 (.mem (.sibNoBase 1 4 1))) [0xCC] := by decide
theorem test_decode_wrong_vvvv_reserved_length :
    decode .refuse [0x62, 0xF1, 0x74, 0x68, 0x5A, 0xC1] = .invalidOpcode 6 := by decide
theorem test_decode_neighbour_refused : decode .refuse [0x66, 0x0F, 0x5A, 0xC1] = .refuse .forbiddenPrefix := by decide
theorem test_table_word_legacy : decodeTableWord 24 0xC15A0F = some (.cvtps2pd np false 0 (.reg 1)) := by decide

/-! ## Single steps -/

/-- The launch conventions of 95_test_vectors.md, with code at 1000H and data at 2000H, to which RAX points. -/
def boot (code data : List Byte) : State :=
  { State.reset.launch with
    rip := 0x1000
    gpr := (Vector.replicate 16 (0 : Quad)).set 0 0x2000
    mem := Memory.writeBytes (Memory.writeBytes [] 0x2000 data) 0x1000 code }

/-- Singles as bytes. -/
def singles (ws : List (BitVec 32)) : List Byte := ws.flatMap disp32Bytes

/-- 4.0, 3.0, 2.0, 1.0, the most significant first. -/
abbrev four : ZmmValue := 0x4080000040400000400000003F800000

/-- Every byte A5. -/
abbrev pat : ZmmValue := BitVec.ofNat 512 (0xA5 * ((2 ^ 512 - 1) / 255))

/-- What a step leaves in a register, in MXCSR and in `pc`. -/
def after (s : State) (n : VReg) : Option (ZmmValue × BitVec 32 × Quad) :=
  (next? (step s)).map (fun t => (t.vreg n, t.mxcsr, t.rip))

/-- 95_test_vectors.md 2.2.1: the upper bits are kept. -/
theorem test_step_cvtps2pd :
    after (((boot [0x0F, 0x5A, 0xC1] []).setVreg 0 pat).setVreg 1 four) 0 =
      some ((pat &&& ~~~(BitVec.ofNat 512 (2 ^ 128 - 1))) ||| 0x40000000000000003FF0000000000000, 0x1F80, 0x1003) := by
  decide +kernel

/-- 95_test_vectors.md 2.3.1: source and destination the same register. -/
theorem test_step_cvtps2pd_same_register :
    after ((boot [0x0F, 0x5A, 0xC0] []).setVreg 0 0x111111112222222240400000BF800000) 0 =
      some (0x4008000000000000BFF0000000000000, 0x1F80, 0x1003) := by
  decide +kernel

/-- 95_test_vectors.md 2.2.2: the upper bits are zeroed. -/
theorem test_step_vex2_128 :
    after (((boot [0xC5, 0xF8, 0x5A, 0xC1] []).setVreg 0 pat).setVreg 1 four) 0 =
      some (0x40000000000000003FF0000000000000, 0x1F80, 0x1004) := by
  decide +kernel

/-- 95_test_vectors.md 2.2.3. -/
theorem test_step_vex2_256 :
    after (((boot [0xC5, 0xFC, 0x5A, 0xC1] []).setVreg 0 pat).setVreg 1 four) 0 =
      some (0x4010000000000000400800000000000040000000000000003FF0000000000000, 0x1F80, 0x1004) := by
  decide +kernel

/-- 95_test_vectors.md 2.2.8: `W` ignored. -/
theorem test_step_vex3_128 :
    after (((boot [0xC4, 0xE1, 0xF8, 0x5A, 0xC1] []).setVreg 0 pat).setVreg 1 four) 0 =
      some (0x40000000000000003FF0000000000000, 0x1F80, 0x1005) := by
  decide +kernel

/-- 95_test_vectors.md 2.2.9. -/
theorem test_step_vex3_256 :
    after (((boot [0xC4, 0xE1, 0x7C, 0x5A, 0xC1] []).setVreg 0 pat).setVreg 1 four) 0 =
      some (0x4010000000000000400800000000000040000000000000003FF0000000000000, 0x1F80, 0x1005) := by
  decide +kernel

/-- The worked example of R144: `disp8` scaled by 8, element 0 zeroed. -/
theorem test_step_evex_128 :
    after ({ boot [0x62, 0xF1, 0x7C, 0x8B, 0x5A, 0x48, 0x01] (singles [0, 0, 0x3F800000, 0x40000000]) with
      k := (Vector.replicate 8 (0 : BitVec 64)).set 3 2 }.setVreg 1 pat) 1 =
      some (0x40000000000000000000000000000000, 0x1F80, 0x1007) := by
  decide +kernel

/-- The worked example of R145, the operand at RAX: broadcast under merging. -/
theorem test_step_evex_256 :
    after ({ boot [0x62, 0xF1, 0x7C, 0x39, 0x5A, 0x20] (singles [0x40490FDB]) with
      k := (Vector.replicate 8 (0 : BitVec 64)).set 1 5 }.setVreg 4 0x1111111111111111111111111111111111111111111111111111111111111111) 4 =
      some (0x1111111111111111400921FB600000001111111111111111400921FB60000000, 0x1F80, 0x1006) := by
  decide +kernel

/-- The worked example of R146: zeroing. -/
theorem test_step_evex_512 :
    after ({ boot [0x62, 0xF1, 0x7C, 0xCA, 0x5A, 0xCA] [] with
      k := (Vector.replicate 8 (0 : BitVec 64)).set 2 0xA5 }.setVreg 2
        0x4100000040E0000040C0000040A000004080000040400000400000003F800000) 1 =
      some (0x40200000000000000000000000000000401800000000000000000000000000000000000000000000400800000000000000000000000000003FF0000000000000,
        0x1F80, 0x1006) := by
  decide +kernel

/-- R184: an unmasked signaling NaN faults with the flag set and the destination kept. -/
theorem test_step_unmasked_invalid :
    (match step (((boot [0x0F, 0x5A, 0xC1] []).setVreg 1 0x7F800001).setMxcsr 0x1F00) with
      | .fault f => (f.exception, f.state.mxcsr, f.state.rip) | _ => (.invalidOpcode, 0, 0)) =
      (.simdFloatingPoint, 0x1F01, 0x1000) := by
  decide +kernel

/-- R208: nothing is listed at RAX. -/
theorem test_step_page_fault :
    (match step (boot [0x0F, 0x5A, 0x00] []) with
      | .fault f => f.exception.vector | _ => 0) = 14 := by
  decide +kernel

theorem test_step_refuses_reset : refusal? (step State.reset) = some .modeNotAdmitted := by decide +kernel

theorem test_reset_runs_placed_word :
    (next? (step (State.reset.withFetchWord 24 0xC15A0F))).map (fun t => t.rip) = some 0xFFF3 := by decide +kernel

/-! ## Witnesses: concrete states and operands that meet the hypotheses of the statements -/

/-- The base state of the witnesses: 40H bytes of data at 2000H, `K[1] = 100H`. -/
def base : State :=
  { boot [0x0F, 0x5A, 0xC1] (singles [0x3F800000, 1, 2, 3, 4, 5, 6, 7, 8, 9, 10, 11, 12, 13, 14, 15]) with
    k := (Vector.replicate 8 (0 : BitVec 64)).set 1 0x100 }

/-- `base` with an unmasked signaling NaN and a denormal in register 1. -/
def hot : State := (base.setVreg 1 0x000000017F800001).setMxcsr 0

theorem next_of_isSome (r : Result) (h : (next? r).isSome = true) : ∃ t, r = .next t := by
  cases r with
  | next t => exact ⟨t, rfl⟩
  | fault f => cases h
  | refused r => cases h

theorem fault_of_exception (r : Result) (e : Exception) (h : exception? r = some e) :
    ∃ t, r = .fault (.raised e t) := by
  cases r with
  | next t => cases h
  | fault f =>
    obtain ⟨e', t⟩ := f
    cases h
    exact ⟨t, rfl⟩
  | refused r => cases h

theorem witness_premises (f : Form) : base.premises f := by
  cases f <;> (unfold State.premises; decide +kernel)

theorem witness_premises_hot (f : Form) : hot.premises f := by
  cases f <;> (unfold State.premises; decide +kernel)

theorem witness_masked (sig : Signals) : allMasked sig base.mxcsr := by
  have h1 : mxcsrBit base.mxcsr .im = true := by decide +kernel
  have h2 : mxcsrBit base.mxcsr .dm = true := by decide +kernel
  exact ⟨fun _ => h1, fun _ => h2⟩

theorem witness_readable_8 : base.readable 0x2000 8 := by unfold State.readable; decide +kernel
theorem witness_readable_16 : base.readable 0x2000 16 := by unfold State.readable; decide +kernel
theorem witness_readable_32 : base.readable 0x2000 32 := by unfold State.readable; decide +kernel
theorem witness_readable_4 : base.readable 0x2000 4 := by unfold State.readable; decide +kernel

/-- RAX + no displacement. -/
abbrev rax : MemForm := .base 0 .none

theorem witness_address (c : Operation) (h : c.pre = np) : base.linearAddress c rax = 0x2000 := by
  simp only [State.linearAddress, h, State.segBase, State.offset, State.addressSum, State.addrReg, dispValue,
    Bool.false_eq_true, if_false]
  decide +kernel

/-- `ConvertNormal`, both ends of the range of `e`. -/
theorem test_witness_ConvertNormal :
    (1 ≤ (1#8).toNat ∧ (1#8).toNat ≤ 254) ∧ 1 ≤ (254#8).toNat ∧ (254#8).toNat ≤ 254 := by decide

/-- `ConvertDenormal`, both ends of the range of `p`; `ConvertNaN` and the DAZ clause, a fraction of each kind. -/
theorem test_witness_ConvertDenormal :
    (2 ^ 0 ≤ (1#23).toNat ∧ (1#23).toNat < 2 ^ (0 + 1)) ∧
      2 ^ 22 ≤ (0x7FFFFF#23).toNat ∧ (0x7FFFFF#23).toNat < 2 ^ (22 + 1) := by decide
theorem test_witness_ConvertNaN :
    (0x400000#23 ≠ 0 ∧ (0x400000#23).getLsbD 22 = true) ∧ 1#23 ≠ 0 ∧ (1#23).getLsbD 22 = false := by decide

/-- `ConversionLaws`: a value of each class it speaks of. -/
theorem test_witness_ConversionLaws :
    singleClass 0x7F800001 = .signalingNaN ∧ singleClass 0x7F800000 = .infinity ∧ singleClass 1 = .denormal ∧
      singleClass 0x3F800000 = .normal ∧ singleUnits 0x80000001 = some (-1) ∧ singleUnits 1 = some 1 := by decide

theorem test_witness_LegacyRegisterResult : base.premises .legacy ∧
    allMasked (elementSignals 2 (fun _ => true) (base.regWord 1) base.daz) base.mxcsr :=
  ⟨witness_premises _, witness_masked _⟩

theorem test_witness_LegacyMemoryResult : base.premises .legacy ∧
    0x2000 = base.linearAddress (operationOf (.cvtps2pd np false 0 (.mem rax))) rax ∧ base.readable 0x2000 8 ∧
    allMasked (elementSignals 2 (fun _ => true) (base.memWord 0x2000) base.daz) base.mxcsr :=
  ⟨witness_premises _, (witness_address _ rfl).symm, witness_readable_8, witness_masked _⟩

/-- `VexRegisterResult` and `VexMemoryResult`: the four constructors. -/
theorem test_witness_VexResult :
    isVexInstr .vex128 np 15 0 (.reg 1) (.vcvtps2pd128Vex2 np 15 0 (.reg 1)) ∧
    isVexInstr .vex128 np 15 0 (.mem rax) (.vcvtps2pd128Vex3 np 15 0 (.mem rax)) ∧
    isVexInstr .vex256 np 15 0 (.reg 1) (.vcvtps2pd256Vex3 np 15 0 (.reg 1)) ∧
    isVexInstr .vex256 np 15 0 (.mem rax) (.vcvtps2pd256Vex2 np 15 0 (.mem rax)) ∧
    base.premises .vex128 ∧ base.premises .vex256 ∧
    0x2000 = base.linearAddress (operationOf (.vcvtps2pd256Vex2 np 15 0 (.mem rax))) rax ∧
    base.readable 0x2000 (Form.vl .vex128 / 16) ∧ base.readable 0x2000 (Form.vl .vex256 / 16) ∧
    allMasked (elementSignals 4 (fun _ => true) (base.regWord 1) base.daz) base.mxcsr ∧
    allMasked (elementSignals 4 (fun _ => true) (base.memWord 0x2000) base.daz) base.mxcsr :=
  ⟨.inl ⟨rfl, .inl rfl⟩, .inl ⟨rfl, .inr rfl⟩, .inr ⟨rfl, .inr rfl⟩, .inr ⟨rfl, .inl rfl⟩, witness_premises _,
    witness_premises _, (witness_address _ rfl).symm, witness_readable_8, witness_readable_16, witness_masked _,
    witness_masked _⟩

/-- `EvexRegisterResult`, `EvexMemoryResult` and `EvexBroadcastResult`: the three constructors, merging and zeroing. -/
theorem test_witness_EvexResult :
    isEvexInstr .evex128 np 15 1 true false 0 (.reg 1) (.vcvtps2pd128Evex np 15 1 true false 0 (.reg 1)) ∧
    isEvexInstr .evex256 np 15 0 false false 0 (.mem rax) (.vcvtps2pd256Evex np 15 0 false false 0 (.mem rax)) ∧
    isEvexInstr .evex512 np 15 7 false true 31 (.mem rax) (.vcvtps2pd512Evex np 15 7 false true 31 (.mem rax)) ∧
    ¬ (true = true ∧ (1 : KReg) = 0) ∧ ¬ (false = true ∧ (0 : KReg) = 0) ∧
    base.premises .evex128 ∧ base.premises .evex256 ∧ base.premises .evex512 ∧
    0x2000 = base.linearAddress (operationOf (.vcvtps2pd512Evex np 15 7 false true 31 (.mem rax))) rax ∧
    base.readable 0x2000 (Form.vl .evex256 / 16) ∧ base.readable 0x2000 (Form.vl .evex512 / 16) ∧
    base.readable 0x2000 4 ∧
    allMasked (elementSignals 8 (base.maskBit 7) (fun _ => base.wordAt 0x2000) base.daz) base.mxcsr :=
  ⟨.inl ⟨rfl, rfl⟩, .inr (.inl ⟨rfl, rfl⟩), .inr (.inr ⟨rfl, rfl⟩), by decide, by decide, witness_premises _,
    witness_premises _, witness_premises _, (witness_address _ rfl).symm, witness_readable_16, witness_readable_32,
    witness_readable_4, witness_masked _⟩

theorem test_witness_SaeSuppressesExceptions :
    ¬ (false = true ∧ (0 : KReg) = 0) ∧ ¬ (true = true ∧ (1 : KReg) = 0) ∧ hot.premises .evex512 :=
  ⟨by decide, by decide, witness_premises_hot _⟩

/-- `AllZeroWritemask`: a register source, a readable operand, and one whose read faults. -/
theorem test_witness_AllZeroWritemask :
    isEvexInstr .evex512 np 15 1 true false 0 (.mem rax) (.vcvtps2pd512Evex np 15 1 true false 0 (.mem rax)) ∧
    Instr.wf (.vcvtps2pd512Evex np 15 1 true false 0 (.mem rax)) = true ∧ (1 : KReg) ≠ 0 ∧
    (∀ j < Form.kl .evex512, (base.kreg 1).getLsbD j = false) ∧ base.premises .evex512 ∧
    base.readable 0x2000 32 ∧
    base.memRead true 0x800000000000 32 = .fault .stackFault :=
  ⟨.inr (.inr ⟨rfl, rfl⟩), by decide, by decide, by decide +kernel, witness_premises _, witness_readable_32,
    by decide +kernel⟩

/-- `UnusedSourceBitsIgnored`: another value of register 1 with the two used words the same. -/
theorem test_witness_UnusedSourceBitsIgnored :
    (1 : VReg) ≠ 0 ∧
    (∀ j < Form.kl .legacy, base.maskBit 0 j = true →
      (0xFFFF0000000000000000 : ZmmValue).extractLsb' (32 * j) 32 = base.regWord 1 j) ∧
    ∃ t, exec (.cvtps2pd np false 0 (.reg 1)) base = .next t :=
  ⟨by decide, by decide +kernel, next_of_isSome _ (by decide +kernel)⟩

/-- `LaneDependsOnItsOwnInputs`: two states that differ in element 1 and agree in element 0. -/
theorem test_witness_LaneDependsOnItsOwnInputs :
    base.readSource (operationOf (.cvtps2pd np false 0 (.reg 1))) = .ok 0 ∧
    (base.setVreg 1 0x100000000).readSource (operationOf (.cvtps2pd np false 0 (.reg 1))) = .ok 0x100000000 ∧
    srcLane 0 0 = srcLane 0x100000000 0 ∧
    (∃ t, exec (.cvtps2pd np false 0 (.reg 1)) base = .next t) ∧
    ∃ t, exec (.cvtps2pd np false 0 (.reg 1)) (base.setVreg 1 0x100000000) = .next t :=
  ⟨by decide +kernel, by decide +kernel, by decide, next_of_isSome _ (by decide +kernel),
    next_of_isSome _ (by decide +kernel)⟩

/-- `RoundingAndFtzIrrelevant`: RC = 11b and FTZ = 1 against 00b and 0. -/
theorem test_witness_RoundingAndFtzIrrelevant :
    mxcsrBit 0xFF80 .daz = mxcsrBit base.mxcsr .daz ∧ mxcsrBit 0xFF80 .im = mxcsrBit base.mxcsr .im ∧
    mxcsrBit 0xFF80 .dm = mxcsrBit base.mxcsr .dm ∧ ∃ t, exec (.cvtps2pd np false 0 (.reg 1)) base = .next t :=
  ⟨by decide +kernel, by decide +kernel, by decide +kernel, next_of_isSome _ (by decide +kernel)⟩

/-- `VexSpellingsAgree`: sources that are not RIP-relative, and a run that completes. -/
theorem test_witness_VexSpellingsAgree :
    (∀ d, Rm.reg 1 ≠ .mem (.ripRel d)) ∧ (∀ d, Rm.mem rax ≠ .mem (.ripRel d)) ∧
    ∃ t, exec (.vcvtps2pd128Vex2 np 15 0 (.mem rax)) base = .next t :=
  ⟨(by intro d h; cases h), (by intro d h; cases h), next_of_isSome _ (by decide +kernel)⟩

/-- `EvexWithoutMaskIsVex`: a register; and memory at 2008H, `disp8` 8 of VEX against 1 of EVEX, scaled; runs that
complete, and one that faults. -/
theorem test_witness_EvexWithoutMaskIsVex :
    isVexInstr .vex128 np 15 0 (.reg 1) (.vcvtps2pd128Vex2 np 15 0 (.reg 1)) ∧
    isVexInstr .vex128 np 15 0 (.mem (.base 0 (.disp8 8))) (.vcvtps2pd128Vex3 np 15 0 (.mem (.base 0 (.disp8 8)))) ∧
    base.premises .vex128 ∧ base.premises .evex128 ∧ hot.premises .vex128 ∧ hot.premises .evex128 ∧
    base.linearAddress (operationOf (.vcvtps2pd128Vex3 np 15 0 (.mem (.base 0 (.disp8 8))))) (.base 0 (.disp8 8)) =
      base.linearAddress (operationOf (.vcvtps2pd128Evex np 15 0 false false 0 (.mem (.base 0 (.disp8 1)))))
        (.base 0 (.disp8 1)) ∧
    (∃ t, exec (.vcvtps2pd128Vex3 np 15 0 (.mem (.base 0 (.disp8 8)))) base = .next t) ∧
    (∃ t, exec (.vcvtps2pd128Evex np 15 0 false false 0 (.mem (.base 0 (.disp8 1)))) base = .next t) ∧
    ∃ t, exec (.vcvtps2pd128Vex2 np 15 0 (.reg 1)) hot = .fault (.raised .simdFloatingPoint t) :=
  ⟨.inl ⟨rfl, .inl rfl⟩, .inl ⟨rfl, .inr rfl⟩, witness_premises _, witness_premises _, witness_premises_hot _,
    witness_premises_hot _, by decide +kernel, next_of_isSome _ (by decide +kernel),
    next_of_isSome _ (by decide +kernel), fault_of_exception _ _ (by decide +kernel)⟩

/-- `PrivilegeLevelIrrelevant`: a register form that completes, one that faults, one that is refused. -/
theorem test_witness_PrivilegeLevelIrrelevant :
    (∃ t, exec (.cvtps2pd np false 0 (.reg 1)) base = .next t) ∧
    (∃ t, exec (.cvtps2pd np false 0 (.reg 1)) hot = .fault (.raised .simdFloatingPoint t)) ∧
    refusal? (exec (.vcvtps2pd512Evex np 15 0 true false 0 (.reg 1)) base) =
      some (.decode .zeroingWithoutMask) :=
  ⟨next_of_isSome _ (by decide +kernel), fault_of_exception _ _ (by decide +kernel), by decide +kernel⟩

/-- `FlagLaw` and `UnmaskedExceptionDecidesCompletion`: a run that completes and one that faults. -/
theorem test_witness_FlagLaw :
    Instr.wf (.cvtps2pd np false 0 (.reg 1)) = true ∧ hot.premises .legacy ∧
    hot.readSource (operationOf (.cvtps2pd np false 0 (.reg 1))) = .ok 0x000000017F800001 ∧
    ¬ allMasked (elementSignals 2 (hot.maskBit 0) (srcLane 0x000000017F800001) hot.daz) hot.mxcsr ∧
    (∃ t, exec (.cvtps2pd np false 0 (.reg 1)) hot = .fault (.raised .simdFloatingPoint t)) ∧
    ∃ t, exec (.cvtps2pd np false 0 (.reg 1)) (hot.setMxcsr 0x1F80) = .next t :=
  ⟨by decide, witness_premises_hot _, by decide +kernel, by unfold allMasked; decide +kernel,
    fault_of_exception _ _ (by decide +kernel), next_of_isSome _ (by decide +kernel)⟩

/-- `WrongVvvvRaisesUD`: both ends of the range of `vvvv`. -/
theorem test_witness_WrongVvvvRaisesUD :
    isVexInstr .vex128 np 0 0 (.reg 1) (.vcvtps2pd128Vex2 np 0 0 (.reg 1)) ∧ (0 : BitVec 4) ≠ 15 ∧
    isEvexInstr .evex512 np 14 0 false false 0 (.reg 1) (.vcvtps2pd512Evex np 14 0 false false 0 (.reg 1)) ∧
    (14 : BitVec 4) ≠ 15 :=
  ⟨.inl ⟨rfl, .inl rfl⟩, by decide, .inr (.inr ⟨rfl, rfl⟩), by decide⟩

/-- `MissingFeatureRaisesUD`: AVX512VL alone is missing. -/
theorem test_witness_MissingFeatureRaisesUD :
    Instr.wf (.vcvtps2pd128Evex np 15 0 false false 0 (.reg 1)) = true ∧
    ∃ x ∈ Form.features .evex128, hasFeature ⟨true, true, true, false⟩ x = false := by decide

/-- `DisabledStateRaisesUD`: one state for each clause. -/
theorem test_witness_DisabledStateRaisesUD :
    State.cr0EM { base with cr0 := 4 } = true ∧ State.osfxsr { base with cr4 := 0 } = false ∧
    State.osxsave { base with cr4 := 0 } = false ∧ State.xcr0Avx { base with xcr0 := 0xE3 } ≠ 3 ∧
    State.xcr0Avx512 { base with xcr0 := 0xC7 } ≠ 7 ∧ ({ base with mode := .realAddress } : State).mode = .realAddress ∧
    ({ base with mode := .virtual8086 } : State).mode = .virtual8086 := by decide +kernel

/-- `TaskSwitchedRaisesNM`: a well-formed instruction with a memory operand, in a state that meets the premises. -/
theorem test_witness_TaskSwitchedRaisesNM :
    Instr.wf (.vcvtps2pd256Vex3 np 15 0 (.mem rax)) = true ∧
    (operationOf (.vcvtps2pd256Vex3 np 15 0 (.mem rax))).vvvv = 15 ∧ base.premises .vex256 :=
  ⟨by decide, rfl, witness_premises _⟩

/-- `base` with RAX and RBP at the first address above the lower half. -/
def far : State := { base with gpr := Vector.replicate 16 (0x800000000000 : Quad) }

/-- `MemoryFaultBeforeNumericFault` and `NonCanonicalOperandFaults`: with RAX, and with RBP, which is SS-relative. -/
theorem test_witness_NonCanonicalOperandFaults :
    Instr.wf (.cvtps2pd np false 0 (.mem rax)) = true ∧ far.premises .legacy ∧
    far.memRead false (far.linearAddress (operationOf (.cvtps2pd np false 0 (.mem rax))) rax) 8 =
      .fault .generalProtection ∧
    canonical far.proc.linear
      (far.linearAddress (operationOf (.cvtps2pd np false 0 (.mem rax))) rax + BitVec.ofNat 64 7) = false ∧
    (operationOf (.cvtps2pd np false 0 (.mem (.base 5 (.disp8 0))))).stackAccess (.base 5 (.disp8 0)) = true ∧
    canonical far.proc.linear (far.linearAddress (operationOf (.cvtps2pd np false 0 (.mem (.base 5 (.disp8 0)))))
      (.base 5 (.disp8 0)) + BitVec.ofNat 64 0) = false :=
  ⟨by decide, by unfold State.premises; decide +kernel, by decide +kernel, by decide +kernel, by decide,
    by decide +kernel⟩

/-- `UnreadableOperandPageFaults`: RAX four bytes before the end of the data, so that the last four bytes are missing. -/
theorem test_witness_UnreadableOperandPageFaults :
    base.alignmentChecking = false ∧
    (∀ k < 8, canonical base.proc.linear ((0x203C : Quad) + BitVec.ofNat 64 k) = true ∧
      base.inRegion .sideEffects ((0x203C : Quad) + BitVec.ofNat 64 k) = false ∧
      (0x203C : Quad) + BitVec.ofNat 64 k ∉ base.breakpoints) ∧
    (∃ k < 8, base.readByte ((0x203C : Quad) + BitVec.ofNat 64 k) = none) ∧
    base.linearAddress (operationOf (.cvtps2pd np false 0 (.mem (.base 0 (.disp8 0x3C))))) (.base 0 (.disp8 0x3C)) =
      0x203C := by
  decide +kernel

/-- `base` at CPL 3 with alignment checking on. -/
def checking : State := { base with cpl := 3, cr0 := 0x40000, rflags := 0x40000 }

/-- `AlignmentCheck`: an operand at 2001H. -/
theorem test_witness_AlignmentCheck :
    checking.premises .legacy ∧ checking.alignmentChecking = true ∧
    checking.linearAddress (operationOf (.cvtps2pd np false 0 (.mem (.base 0 (.disp8 1))))) (.base 0 (.disp8 1)) =
      0x2001 ∧
    (0x2001 : Quad).toNat % 8 ≠ 0 ∧
    (∀ k < 8, canonical checking.proc.linear ((0x2001 : Quad) + BitVec.ofNat 64 k) = true ∧
      checking.inRegion .sideEffects ((0x2001 : Quad) + BitVec.ofNat 64 k) = false ∧
      (0x2001 : Quad) + BitVec.ofNat 64 k ∉ checking.breakpoints ∧
      (checking.readByte ((0x2001 : Quad) + BitVec.ofNat 64 k)).isSome = true) ∧
    ∃ t, exec (.cvtps2pd np false 0 (.mem (.base 0 (.disp8 1)))) checking = .fault (.raised .alignmentCheck t) :=
  ⟨by unfold State.premises; decide +kernel, by decide +kernel, by decide +kernel, by decide, by decide +kernel,
    fault_of_exception _ _ (by decide +kernel)⟩

/-- `DeviceSourceRefused`: a region that begins at the last byte of the operand. -/
theorem test_witness_DeviceSourceRefused :
    (∀ k < 8, canonical base.proc.linear ((0x2000 : Quad) + BitVec.ofNat 64 k) = true) ∧
    State.inRegion { base with regions := [⟨0x2007, 0x2FFF, .sideEffects⟩] } .sideEffects
      ((0x2000 : Quad) + BitVec.ofNat 64 7) = true ∧
    State.premises { base with regions := [⟨0x2007, 0x2FFF, .sideEffects⟩] } .legacy :=
  ⟨by decide +kernel, by decide +kernel, by unfold State.premises; decide +kernel⟩

/-- `RetryAfterMaskingCompletes`. -/
theorem test_witness_RetryAfterMaskingCompletes :
    ∃ t, exec (.cvtps2pd np false 0 (.reg 1)) hot = .fault (.raised .simdFloatingPoint t) :=
  fault_of_exception _ _ (by decide +kernel)

/-- `StepRunsDecodedInstruction`, `StateNeverWritten`, `PcAdvancesByLength` (first clause) and `UpperRegistersNeedEvex`: `base` decodes to an instruction, and its step completes. -/
theorem test_witness_StepRunsDecodedInstruction :
    base.mode = .mode64 ∧ base.flagTF = false ∧ base.rip ∉ base.breakpoints ∧
    decode base.proc.saeLL base.fetchBytes = .instr (.cvtps2pd np false 0 (.reg 1)) [] ∧
    inOneHalf base.proc.linear base.rip (Instr.length (.cvtps2pd np false 0 (.reg 1))) = true ∧
    (∃ t, step base = .next t) ∧ ∃ t, exec (.cvtps2pd np false 0 (.reg 1)) base = .next t :=
  ⟨by decide +kernel, by decide +kernel, by decide +kernel, by decide +kernel, by decide +kernel,
    next_of_isSome _ (by decide +kernel), next_of_isSome _ (by decide +kernel)⟩

/-- `StateNeverWritten`, `FaultsArePrecise` and `PcAdvancesByLength` (second clause): a step that faults. -/
theorem test_witness_FaultsArePrecise :
    (∃ t, step hot = .fault (.raised .simdFloatingPoint t)) ∧ hot.osxmmexcpt = true ∧
    ∃ t, step { base with cr4 := 0 } = .fault (.raised .invalidOpcode t) :=
  ⟨fault_of_exception _ _ (by decide +kernel), by decide +kernel, fault_of_exception _ _ (by decide +kernel)⟩

/-- `PcAdvancesByLength`, third clause: three bytes at the very end of the lower half. -/
theorem test_witness_PcAdvancesByLength :
    decode .refuse (State.fetchBytes { base with
      rip := 0x7FFFFFFFFFFD, mem := Memory.writeBytes [] 0x7FFFFFFFFFFD [0x0F, 0x5A, 0xC1] }) =
      .instr (.cvtps2pd np false 0 (.reg 1)) [] ∧
    inOneHalf .la48 0x7FFFFFFFFFFD 3 = false ∧ inOneHalf .la48 0x7FFFFFFFFFFC 3 = true := by
  decide +kernel

theorem test_witness_StepKeepsInvariant : base.Inv ∧ ∃ t, step base = .next t :=
  ⟨by unfold State.Inv; decide +kernel, next_of_isSome _ (by decide +kernel)⟩

theorem test_witness_LaunchMeetsPremises :
    ∀ f ∈ [Form.legacy, .vex128, .vex256, .evex128, .evex256, .evex512],
      ∀ x ∈ f.features, hasFeature State.reset.proc.features x = true := by decide

theorem test_witness_PlacedWordRunsNext :
    State.reset.proc.saeLL = .refuse ∧ State.reset.rip.toNat + 15 < halfSize State.reset.proc.linear ∧
    decodeTableWord 24 0xC15A0F = some (.cvtps2pd np false 0 (.reg 1)) := by decide +kernel

/-- `DecodeEncodeRoundTrip`, `DecodedIsWellFormed` and `LengthIsNumberOfBytes`: a well-formed instruction of every row. -/
theorem test_witness_DecodeEncodeRoundTrip :
    ∀ i ∈ [Instr.cvtps2pd np true 15 (.reg 15), .vcvtps2pd128Vex2 np 15 15 (.reg 7),
      .vcvtps2pd256Vex2 np 0 15 (.mem rax), .vcvtps2pd128Vex3 np 15 15 (.reg 15), .vcvtps2pd256Vex3 np 15 0 (.mem rax),
      .vcvtps2pd128Evex np 15 7 true true 31 (.mem rax), .vcvtps2pd256Evex np 15 0 false false 31 (.reg 31),
      .vcvtps2pd512Evex np 15 7 true true 31 (.reg 31)], i.wf = true ∧ decode .refuse (encode i) = .instr i [] := by
  decide

/-- The two orders of the prefixes. -/
theorem witness_spelledBy : (Prefixes.mk (some .fs) true).spelledBy [0x64, 0x67] ∧
    (Prefixes.mk (some .fs) true).spelledBy [0x67, 0x64] := ⟨.inl rfl, .inr rfl⟩

/-- `WrongVvvvComesFirst`, both clauses: `67` before `64`, `L'L = 11b`, which is no row, and `L'L = 00b`, which is one. -/
theorem test_witness_WrongVvvvComesFirst :
    ∀ p2 ∈ [(0x68 : Byte), 0x08],
      State.mode (boot [0x67, 0x64, 0x62, 0xF1, 0x74, p2, 0x5A, 0xC1] []) = .mode64 ∧
      State.flagTF (boot [0x67, 0x64, 0x62, 0xF1, 0x74, p2, 0x5A, 0xC1] []) = false ∧
      State.fetchBytes (boot [0x67, 0x64, 0x62, 0xF1, 0x74, p2, 0x5A, 0xC1] []) =
        [0x67, 0x64] ++ 0x62 :: evexByte0 (dstR 0) (Rm.reg 1).bitX (Rm.reg 1).bitB (dstR' 0) :: evexByte1 14 :: p2 ::
          0x5A :: ((Rm.reg 1).encode (dstLow 0) ++ []) ∧
      inOneHalf .la48 0x1000 ((Prefixes.mk (some .fs) true).count + 5 + (Rm.reg 1).length) = true ∧
      exception? (step (boot [0x67, 0x64, 0x62, 0xF1, 0x74, p2, 0x5A, 0xC1] [])) = some .invalidOpcode := by
  decide +kernel

/-- `InvalidPrefixRefused`, `ReservedEvexFieldsRefused`, `SaeAtAnyLengthUnderVl512`. -/
theorem test_witness_InvalidPrefixRefused :
    (Prefixes.mk (some .fs) true).seg ≠ none ∧ (Prefixes.mk (some .fs) true).addr32 = true ∧ (0xC5 : Byte) ≠ 0x0F ∧
    (Rm.reg 31).wf = true ∧ (Rm.reg 31).isReg = true ∧ (0 : BitVec 2) ≠ 2 ∧ (0 : BitVec 4) ≠ 15 ∧
    ¬ (true = true ∧ (7 : KReg) = 0) ∧ (0x02 : Byte).extractLsb' 0 4 ≠ 1 ∧ (0x78 : Byte).getLsbD 2 = false ∧
    (0x7D : Byte).extractLsb' 0 2 ≠ 0 := by decide

/-- `EffectiveAddressForms`, `CompressedDisplacement`, `AddressSize`. -/
theorem test_witness_EffectiveAddressForms :
    (operationOf (.vcvtps2pd512Evex np 15 0 false true 0 (.mem rax))).pre.addr32 = false ∧
    (operationOf (.cvtps2pd ⟨some .fs, false⟩ false 0 (.mem rax))).pre = ⟨some .fs, false⟩ ∧
    (operationOf (.vcvtps2pd512Evex np 15 0 false true 0 (.mem rax))).src = .mem rax ∧
    (operationOf (.cvtps2pd ⟨some .gs, true⟩ false 0 (.mem rax))).pre.addr32 = true ∧ (12 : Gpr) ≠ 4 := by decide

theorem test_witness_MemoryIsLittleEndian : base.memRead false 0x203C 4 = .ok 15 := by decide +kernel

end Sys2Proof.Tests
end

section
/-!
PROOFS for spec/00_scope.md: the converses of `fetchDecode_run` and `step_next`, from the bytes at `pc` to the step.
-/
namespace Sys2Proof.Machine

/-- R3, R225: in 64-bit mode, without single-step and without a breakpoint at `pc`, no launch condition stops the
fetch before the bytes are decoded. -/
theorem fetchDecode_eq_decodeAt (s : State) (hmode : s.mode = .mode64) (htf : s.flagTF = false)
    (hbp : s.rip ∉ s.breakpoints) : s.fetchDecode = s.decodeAt := by
  simp [State.fetchDecode, hmode, htf, hbp]

/-- R36: decoded bytes that lie in one canonical half are an instruction to run. -/
theorem decodeAt_instr (s : State) (i : Instr) (rest : List Byte)
    (hdec : decode s.proc.saeLL s.fetchBytes = .instr i rest)
    (hhalf : inOneHalf s.proc.linear s.rip i.length = true) : s.decodeAt = .run i := by
  simp [State.decodeAt, hdec, hhalf]

/-- What a fetch that finds an instruction says of the state, both ways. -/
theorem fetchDecode_eq_run_iff (s : State) (i : Instr) :
    s.fetchDecode = .run i ↔
      s.mode = .mode64 ∧ s.flagTF = false ∧ s.rip ∉ s.breakpoints ∧
        (∃ rest, decode s.proc.saeLL s.fetchBytes = .instr i rest) ∧
        inOneHalf s.proc.linear s.rip i.length = true := by
  constructor
  · exact fetchDecode_run s i
  · rintro ⟨hmode, htf, hbp, ⟨rest, hdec⟩, hhalf⟩
    calc s.fetchDecode = s.decodeAt := fetchDecode_eq_decodeAt s hmode htf hbp
      _ = .run i := decodeAt_instr s i rest hdec hhalf

/-- A step that fetches an instruction is that instruction's effect, whatever its outcome. -/
theorem step_of_fetchDecode_run (s : State) (i : Instr) (h : s.fetchDecode = .run i) : step s = exec i s := by
  simp [step, h]

/-- Settles O33: the launch conditions and the decoded bytes make the fetch find `i`, and the step then runs it. -/
theorem stepRunsDecodedInstruction : Obligations.StepRunsDecodedInstruction := by
  intro s i rest hmode htf hbp hdec hhalf
  have hrun : s.fetchDecode = .run i :=
    (fetchDecode_eq_run_iff s i).mpr ⟨hmode, htf, hbp, ⟨rest, hdec⟩, hhalf⟩
  exact step_of_fetchDecode_run s i hrun

end Sys2Proof.Machine
end

section
/-!
PROOFS for spec/10_state.md, the state a step leaves: what recording signals does to MXCSR, when the end of an
instruction is canonical, and the state after a completing and after a faulting step.
-/
namespace Sys2Proof.Machine

/-! ## The flag law, bit by bit (R182) -/

/-- Recording signals sets bit 0 by Invalid and bit 1 by Denormal; every other bit is as before. -/
theorem getLsbD_recordSignals (sig : Signals) (m : BitVec 32) (k : Nat) :
    (recordSignals sig m).getLsbD k = (m.getLsbD k || decide (k = 0) && sig.ie || decide (k = 1) && sig.de) := by
  have bit0 : (1 : BitVec 32).getLsbD k = decide (k = 0) := by simp [BitVec.getLsbD_one]
  have bit1 : (2 : BitVec 32).getLsbD k = decide (k = 1) := by
    rw [show (2 : BitVec 32) = BitVec.twoPow 32 1 by decide, BitVec.getLsbD_twoPow]
    simp [eq_comm]
  obtain ⟨ie, de⟩ := sig
  simp only [recordSignals, BitVec.getLsbD_or, apply_ite (fun b : BitVec 32 => b.getLsbD k), bit0, bit1]
  cases ie <;> cases de <;> simp

@[simp] theorem recordSignals_nothing (m : BitVec 32) : recordSignals ⟨false, false⟩ m = m := by
  simp [recordSignals]

theorem getLsbD_recordSignals_of_two_le (sig : Signals) (m : BitVec 32) (k : Nat) (hk : 2 ≤ k) :
    (recordSignals sig m).getLsbD k = m.getLsbD k := by
  have h0 : k ≠ 0 := by omega
  have h1 : k ≠ 1 := by omega
  simp [getLsbD_recordSignals, h0, h1]

/-- R34: the flags are sticky. -/
theorem mxcsrBit_recordSignals_of_set (sig : Signals) (m : BitVec 32) (b : MxcsrBit) (h : mxcsrBit m b = true) :
    mxcsrBit (recordSignals sig m) b = true := by
  have hb : m.getLsbD b.pos = true := h
  simp [mxcsrBit, getLsbD_recordSignals, hb]

@[simp] theorem mxcsrBit_recordSignals_daz (sig : Signals) (m : BitVec 32) :
    mxcsrBit (recordSignals sig m) .daz = mxcsrBit m .daz :=
  getLsbD_recordSignals_of_two_le sig m _ (by decide)

@[simp] theorem mxcsrReserved_recordSignals (sig : Signals) (m : BitVec 32) :
    mxcsrReserved (recordSignals sig m) = mxcsrReserved m := by
  refine BitVec.eq_of_getLsbD_eq fun k hk => ?_
  simp only [mxcsrReserved, BitVec.getLsbD_extractLsb', getLsbD_recordSignals_of_two_le sig m (16 + k) (by omega)]

/-! ## The canonical halves (R36, R74) -/

theorem halfSize_le (w : LinearWidth) : halfSize w ≤ 2 ^ 64 := by cases w <;> decide

/-- A canonical address is one of the lower or of the upper half. -/
theorem canonical_iff (w : LinearWidth) (a : Quad) :
    canonical w a = true ↔ a.toNat < halfSize w ∨ 2 ^ 64 - halfSize w ≤ a.toNat := by
  have ha : a.toNat < 2 ^ 64 := a.isLt
  cases w <;>
    simp only [canonical, halfSize, Bool.or_eq_true, beq_iff_eq, ← BitVec.toNat_inj, BitVec.extractLsb'_toNat,
      BitVec.toNat_allOnes, Nat.shiftRight_eq_div_pow, BitVec.ofNat_eq_ofNat, BitVec.toNat_ofNat] <;>
    omega

theorem inOneHalf_iff (w : LinearWidth) (pc : Quad) (len : Nat) :
    inOneHalf w pc len = true ↔
      pc.toNat + len < halfSize w ∨ 2 ^ 64 - halfSize w ≤ pc.toNat ∧ pc.toNat + len < 2 ^ 64 := by
  simp [inOneHalf]

/-- R36: inside one half, advancing `pc` does not wrap. -/
theorem toNat_add_of_inOneHalf (w : LinearWidth) (pc : Quad) (len : Nat) (h : inOneHalf w pc len = true) :
    (pc + BitVec.ofNat 64 len).toNat = pc.toNat + len := by
  have hw := halfSize_le w
  have hlt : pc.toNat + len < 2 ^ 64 := by
    rcases (inOneHalf_iff w pc len).mp h with hlow | ⟨_, hhigh⟩ <;> omega
  rw [BitVec.toNat_add, BitVec.toNat_ofNat, Nat.add_mod_mod, Nat.mod_eq_of_lt hlt]

/-- R36: inside one half, the advanced `pc` stays in that half. -/
theorem half_of_inOneHalf (w : LinearWidth) (pc : Quad) (len : Nat) (h : inOneHalf w pc len = true) :
    (pc + BitVec.ofNat 64 len).toNat < halfSize w ∨ 2 ^ 64 - halfSize w ≤ pc.toNat := by
  rw [toNat_add_of_inOneHalf w pc len h]
  exact ((inOneHalf_iff w pc len).mp h).imp_right And.left

theorem canonical_add_of_inOneHalf (w : LinearWidth) (pc : Quad) (len : Nat) (h : inOneHalf w pc len = true) :
    canonical w (pc + BitVec.ofNat 64 len) = true := by
  rw [canonical_iff]
  refine (half_of_inOneHalf w pc len h).imp_right fun hhigh => ?_
  rw [toNat_add_of_inOneHalf w pc len h]
  omega

/-! ## The state an instruction and a step leave -/

/-- An instruction that completes writes its destination, records signals and advances by its length. -/
theorem exec_next (i : Instr) (s t : State) (h : exec i s = .next t) :
    ∃ x sig, t = s.completed (operationOf i).dst x sig i.length := by
  rw [exec_eq] at h
  obtain ⟨-, -, -, src, -, -, rfl⟩ := convertPacked_next _ _ _ h
  exact ⟨s.destValue (operationOf i) src, s.signals (operationOf i) src, by rw [operationOf_len]⟩

/-- An instruction that completes has passed its class check. -/
theorem classCheck_of_exec_next (i : Instr) (s t : State) (h : exec i s = .next t) :
    s.classCheck (operationOf i).form = none := by
  rw [exec_eq] at h
  obtain ⟨-, -, hclass, -⟩ := convertPacked_next _ _ _ h
  exact hclass

/-- R215: an instruction that faults at most records signals; where the fault is not numeric, none are. -/
theorem exec_fault (i : Instr) (s t : State) (e : Exception) (h : exec i s = .fault (.raised e t)) :
    ∃ sig, t = s.setMxcsr (recordSignals sig s.mxcsr) := by
  rw [exec_eq] at h
  rcases convertPacked_fault _ _ _ _ h with ⟨rfl, _⟩ | ⟨src, -, -, -, rfl⟩
  · exact ⟨⟨false, false⟩, by rw [recordSignals_nothing]; rfl⟩
  · exact ⟨s.signals (operationOf i) src, rfl⟩

/-- A step that completes decoded an instruction inside one canonical half, and left what that instruction leaves. -/
theorem step_next_completed (s t : State) (h : step s = .next t) :
    ∃ i rest x sig, decode s.proc.saeLL s.fetchBytes = .instr i rest ∧
      inOneHalf s.proc.linear s.rip i.length = true ∧ t = s.completed (operationOf i).dst x sig i.length := by
  obtain ⟨i, hrun, hexec⟩ := step_next s t h
  obtain ⟨-, -, -, ⟨rest, hdec⟩, hhalf⟩ := fetchDecode_run s i hrun
  obtain ⟨x, sig, rfl⟩ := exec_next i s t hexec
  exact ⟨i, rest, x, sig, hdec, hhalf, rfl⟩

/-- A step faults in decoding, with the state unchanged, or in the instruction it fetched. -/
theorem step_fault (s t : State) (e : Exception) (h : step s = .fault (.raised e t)) :
    (s.fetchDecode = .invalidOpcode ∧ e = .invalidOpcode ∧ t = s) ∨
      ∃ i, s.fetchDecode = .run i ∧ exec i s = .fault (.raised e t) := by
  unfold step raise at h
  split at h
  case h_1 i hrun => exact .inr ⟨i, hrun, h⟩
  case h_2 hud =>
    cases h
    exact .inl ⟨hud, rfl, rfl⟩
  case h_3 => cases h

/-- R215: a step that faults at most records signals. -/
theorem step_fault_setMxcsr (s t : State) (e : Exception) (h : step s = .fault (.raised e t)) :
    ∃ sig, t = s.setMxcsr (recordSignals sig s.mxcsr) := by
  rcases step_fault s t e h with ⟨-, -, rfl⟩ | ⟨i, -, hexec⟩
  · exact ⟨⟨false, false⟩, by rw [recordSignals_nothing]; rfl⟩
  · exact exec_fault i s t e hexec

/-! ## The invariant, the frame and `pc` -/

/-- Completing an instruction that lies in one canonical half keeps the invariant. -/
theorem Inv_completed (s : State) (dst : VReg) (x : ZmmValue) (sig : Signals) (len : Nat) (hinv : s.Inv)
    (hhalf : inOneHalf s.proc.linear s.rip len = true) : (s.completed dst x sig len).Inv := by
  obtain ⟨hmem, hreserved, hdaz, -⟩ := hinv
  refine ⟨hmem, ?_, ?_, ?_⟩
  · rwa [completed_mxcsr, mxcsrReserved_recordSignals]
  · rwa [completed_mxcsr, mxcsrBit_recordSignals_daz]
  · exact canonical_add_of_inOneHalf _ _ _ hhalf

/-- Settles O38: a completing step leaves `completed`, whose MXCSR differs in the flags alone and whose `pc` the fetch
has held against its canonical half. -/
theorem stepKeepsInvariant : Obligations.StepKeepsInvariant := by
  intro s t hinv h
  obtain ⟨i, rest, x, sig, -, hhalf, rfl⟩ := step_next_completed s t h
  exact Inv_completed s _ x sig _ hinv hhalf

/-- The clauses of R40 and R34 that hold of any state whose MXCSR is the old one with signals recorded. -/
theorem mxcsr_frame_recordSignals (sig : Signals) (m : BitVec 32) :
    (∀ k, 2 ≤ k → (recordSignals sig m).getLsbD k = m.getLsbD k) ∧
      (mxcsrBit m .ie = true → mxcsrBit (recordSignals sig m) .ie = true) ∧
      (mxcsrBit m .de = true → mxcsrBit (recordSignals sig m) .de = true) :=
  ⟨getLsbD_recordSignals_of_two_le sig m, mxcsrBit_recordSignals_of_set sig m .ie,
    mxcsrBit_recordSignals_of_set sig m .de⟩

/-- Settles O34: a completing step leaves `completed`, a faulting one at most recorded signals. -/
theorem stateNeverWritten : Obligations.StateNeverWritten := by
  rintro s t (h | ⟨e, h⟩)
  · obtain ⟨i, rest, x, sig, hdec, -, rfl⟩ := step_next_completed s t h
    refine ⟨rfl, fun _ => rfl, fun j rest' hdec' n hn => ?_, mxcsr_frame_recordSignals sig s.mxcsr⟩
    obtain ⟨rfl, rfl⟩ : i = j ∧ rest = rest' := by simpa [hdec] using hdec'
    exact vreg_completed_other s _ n x sig _ hn
  · obtain ⟨sig, rfl⟩ := step_fault_setMxcsr s t e h
    exact ⟨rfl, fun _ => rfl, fun _ _ _ _ _ => rfl, mxcsr_frame_recordSignals sig s.mxcsr⟩

/-- R27, R106: the destination of a well-formed LEGACY or VEX instruction is below 16. -/
theorem dst_lt_of_not_evex (i : Instr) (hwf : i.wf = true) (hform : (operationOf i).form.isEvex = false) :
    (operationOf i).dst.toNat < 16 := by
  have hult : (operationOf i).dst.ult 16 = true := by
    cases i <;> simp only [Instr.wf, Bool.and_eq_true] at hwf
    case vcvtps2pd128Evex | vcvtps2pd256Evex | vcvtps2pd512Evex => cases hform
    all_goals
      obtain ⟨⟨-, hdst⟩, -⟩ := hwf
      exact hdst
  simpa [BitVec.ult] using hult

/-- Settles O36: only the destination is written, and its number is below 16. -/
theorem upperRegistersNeedEvex : Obligations.UpperRegistersNeedEvex := by
  intro i s t n hwf hform h hn
  obtain ⟨x, sig, rfl⟩ := exec_next i s t h
  have hdst := dst_lt_of_not_evex i hwf hform
  refine vreg_completed_other s _ n x sig _ fun heq => ?_
  rw [heq] at hn
  omega

/-- R36: an instruction that does not lie in one canonical half is refused. -/
theorem step_refused_of_not_inOneHalf (s : State) (i : Instr) (rest : List Byte) (hmode : s.mode = .mode64)
    (htf : s.flagTF = false) (hbp : s.rip ∉ s.breakpoints)
    (hdec : decode s.proc.saeLL s.fetchBytes = .instr i rest)
    (hhalf : inOneHalf s.proc.linear s.rip i.length = false) : step s = .refused .pcOutsideCanonicalHalf := by
  have hat : s.decodeAt = .refuse .pcOutsideCanonicalHalf := by simp [State.decodeAt, hdec, hhalf]
  simp only [step, fetchDecode_eq_decodeAt s hmode htf hbp, hat]

/-- Settles O37: the fetch has held `pc .. pc + len` against one half, so a completing step does not wrap; a faulting
one writes MXCSR alone. -/
theorem pcAdvancesByLength : Obligations.PcAdvancesByLength := by
  refine ⟨fun s t h => ?_, fun s t e h => ?_, step_refused_of_not_inOneHalf⟩
  · obtain ⟨i, rest, x, sig, hdec, hhalf, rfl⟩ := step_next_completed s t h
    exact ⟨i, rest, hdec, rfl, toNat_add_of_inOneHalf _ _ _ hhalf, half_of_inOneHalf _ _ _ hhalf⟩
  · obtain ⟨sig, rfl⟩ := step_fault_setMxcsr s t e h
    rfl

end Sys2Proof.Machine
end

section
/-!
PROOFS for spec/10_state.md R46: the state after RESET and after INIT.
-/
namespace Sys2Proof.Machine

@[simp] theorem reset_vreg (n : VReg) : State.reset.vreg n = 0 := by simp [State.vreg, State.reset]
@[simp] theorem reset_kreg (n : KReg) : State.reset.kreg n = 0 := by simp [State.kreg, State.reset]
@[simp] theorem reset_greg (r : Gpr) : State.reset.greg r = 0 := by simp [State.greg, State.reset]

/-- Settles O39: memory is empty, MXCSR is 1F80H and `pc` is in the lower half. -/
theorem resetSatisfiesInvariant : Obligations.ResetSatisfiesInvariant := by
  refine ⟨reset_mem_wf, ?_, ?_, ?_⟩ <;> decide

/-- Settles O40, register files for every number, the other fields by their values. -/
theorem resetValues : Obligations.ResetValues :=
  ⟨reset_vreg, reset_kreg, rfl, rfl, rfl, by decide, fun r _ => reset_greg r, rfl, rfl, rfl, rfl, rfl, rfl⟩

/-- R204: with CR4 = 0, as RESET leaves it, both OSFXSR and OSXSAVE are 0, and every form is disabled. -/
theorem stateForbids_of_cr4_zero (s : State) (f : Form) (h : s.cr4 = 0) : s.stateForbids f = true := by
  have hfx : s.osfxsr = false := by simp [State.osfxsr, h]
  have hxs : s.osxsave = false := by simp [State.osxsave, h]
  cases f <;> simp [State.stateForbids, hfx, hxs]

/-- A state whose CR4 is 0 completes no step. -/
theorem step_ne_next_of_cr4_zero (s t : State) (h : s.cr4 = 0) : step s ≠ .next t := by
  intro hstep
  obtain ⟨i, -, hexec⟩ := step_next s t hstep
  obtain ⟨-, henabled, -⟩ := (classCheck_none_iff _ _).mp (classCheck_of_exec_next i s t hexec)
  rw [stateForbids_of_cr4_zero s _ h] at henabled
  cases henabled

/-- Settles O41: neither memory nor the mode changes CR4, which is 0 after RESET. -/
theorem nothingRunsStraightAfterReset : Obligations.NothingRunsStraightAfterReset :=
  fun _ _ t => step_ne_next_of_cr4_zero _ t rfl

/-- R46: INIT takes bits 29 and 30 of CR0 from the old value and the others from RESET. -/
theorem getLsbD_afterInit_cr0 (s : State) (k : Nat) :
    s.afterInit.cr0.getLsbD k = if k = 29 ∨ k = 30 then s.cr0.getLsbD k else State.reset.cr0.getLsbD k := by
  have keep : ∀ k < 64, (0x60000000 : Quad).getLsbD k = decide (k = 29 ∨ k = 30) := by decide
  by_cases hk : k < 64
  · simp only [State.afterInit, BitVec.getLsbD_or, BitVec.getLsbD_and, BitVec.getLsbD_not, keep k hk, hk]
    by_cases hbit : k = 29 ∨ k = 30 <;> simp [hbit]
  · have hbit : ¬ (k = 29 ∨ k = 30) := by omega
    rw [if_neg hbit, BitVec.getLsbD_of_ge _ _ (by omega), BitVec.getLsbD_of_ge _ _ (by omega)]

/-- Settles O42: CR0 bit by bit, the rest field by field. -/
theorem initKeepsVectorState : Obligations.InitKeepsVectorState := fun s =>
  ⟨fun _ => rfl, fun _ => rfl, rfl, getLsbD_afterInit_cr0 s, rfl, rfl, rfl, rfl, rfl, rfl, rfl, rfl⟩

end Sys2Proof.Machine
end

section
/-!
PROOFS for spec/10_state.md R27: whatever the decoder gives is well-formed. One lemma per part of the decoder, in its
order: displacement, SIB, memory operand, ModRM, then each format.
-/
namespace Sys2Proof

/-! ## Register numbers by their bits (R106) -/

theorem low3_append (b : BitVec 1) (r : BitVec 3) : (b ++ r : Gpr).extractLsb' 0 3 = r := by
  revert b r
  decide

theorem zero_append_ult_eight (r : BitVec 3) : (0#1 ++ r : Gpr).ult 8 = true := by
  revert r
  decide

theorem zero_append_ult_sixteen (b : BitVec 1) (r : BitVec 3) : (0#1 ++ b ++ r : VReg).ult 16 = true := by
  revert b r
  decide

theorem zero_zero_append_ult_eight (r : BitVec 3) : (0#1 ++ (0 : BitVec 1) ++ r : VReg).ult 8 = true := by
  revert r
  decide

/-! ## Operand 2 -/

/-- `mod = 00b` alone leaves the displacement out. -/
theorem readDisp_none (mod : BitVec 2) (bs rest : List Byte) (h : readDisp mod bs = some (.none, rest)) :
    mod = 0 := by
  unfold readDisp at h
  split at h
  · assumption
  · split at h <;> split at h <;> simp at h

/-- A displacement fits its base where `mod = 00b` with base field 101b has been taken elsewhere. -/
theorem readDisp_wf (mod : BitVec 2) (b : BitVec 1) (r : BitVec 3) (bs rest : List Byte) (d : Disp)
    (hbase : ¬ (mod = 0 ∧ r = 5)) (h : readDisp mod bs = some (d, rest)) : d.wf (b ++ r) = true := by
  cases d with
  | none =>
    have hmod : mod = 0 := readDisp_none mod bs rest h
    have hr : r ≠ 5 := fun hr => hbase ⟨hmod, hr⟩
    simpa [Disp.wf, low3_append] using hr
  | disp8 d => rfl
  | disp32 d => rfl

/-- What a decoded memory operand fulfils: it is an admitted form, and it needs no extension bit if none was given. -/
def MemForm.decodedFrom (x b : BitVec 1) (m : MemForm) : Prop :=
  m.wf = true ∧ (x = 0 → b = 0 → m.threeBit = true)

theorem decodeSib_decodedFrom (mod : BitVec 2) (x b : BitVec 1) (sib : Byte) (bs rest : List Byte) (m : MemForm)
    (h : decodeSib mod x b sib bs = some (m, rest)) : m.decodedFrom x b := by
  unfold decodeSib at h
  split at h
  · split at h
    · cases h
      refine ⟨rfl, ?_⟩
      rintro rfl -
      exact zero_append_ult_eight _
    · cases h
  · rename_i hbase
    split at h
    · rename_i d rest' hd
      cases h
      refine ⟨readDisp_wf mod b _ bs rest d hbase hd, ?_⟩
      rintro rfl rfl
      exact Bool.and_eq_true_iff.mpr ⟨zero_append_ult_eight _, zero_append_ult_eight _⟩
    · cases h

theorem decodeMem_decodedFrom (mod : BitVec 2) (rm : BitVec 3) (x b : BitVec 1) (bs rest : List Byte) (m : MemForm)
    (h : decodeMem mod rm x b bs = some (m, rest)) : m.decodedFrom x b := by
  unfold decodeMem at h
  split at h
  · split at h
    · exact decodeSib_decodedFrom mod x b _ _ rest m h
    · cases h
  · rename_i hsib
    split at h
    · split at h
      · cases h
        exact ⟨rfl, fun _ _ => rfl⟩
      · cases h
    · rename_i hbase
      split at h
      · rename_i d rest' hd
        cases h
        refine ⟨?_, ?_⟩
        · have hlow : (b ++ rm : Gpr).extractLsb' 0 3 ≠ 4 := by rwa [low3_append]
          exact Bool.and_eq_true_iff.mpr ⟨bne_iff_ne.mpr hlow, readDisp_wf mod b rm bs rest d hbase hd⟩
        · rintro - rfl
          exact zero_append_ult_eight rm
      · cases h

/-- What a decoded operand 2 fulfils: it is admitted, a register number without a fifth bit is below 16, and without
any extension bit nothing needs one. -/
def Rm.decodedFrom (hi x b : BitVec 1) (src : Rm) : Prop :=
  src.wf = true ∧ (hi = 0 → src.fourBit = true) ∧ (hi = 0 → x = 0 → b = 0 → src.threeBit = true)

theorem decodeModRM_decodedFrom (hi x b : BitVec 1) (bs rest : List Byte) (reg : BitVec 3) (src : Rm)
    (h : decodeModRM hi x b bs = some (reg, src, rest)) : src.decodedFrom hi x b := by
  cases bs with
  | nil => cases h
  | cons m bs =>
    rw [decodeModRM] at h
    split at h
    · cases h
      refine ⟨rfl, ?_, ?_⟩
      · rintro rfl
        exact zero_append_ult_sixteen b _
      · rintro rfl - rfl
        exact zero_zero_append_ult_eight _
    · split at h
      · rename_i mem rest' hm
        cases h
        obtain ⟨hwf, hthree⟩ := decodeMem_decodedFrom _ _ x b bs rest mem hm
        exact ⟨hwf, fun _ => rfl, fun _ => hthree⟩
      · cases h

/-! ## The formats -/

theorem decodeLegacy_wf (p : Prefixes) (rex : Option Byte) (bs rest : List Byte) (i : Instr)
    (h : decodeLegacy p rex bs = .instr i rest) : i.wf = true := by
  cases bs with
  | nil => cases h
  | cons op bs =>
    unfold decodeLegacy at h
    dsimp only at h
    split at h
    · split at h
      · rename_i reg src rest' hm
        cases h
        obtain ⟨hwf, hfour, hthree⟩ := decodeModRM_decodedFrom _ _ _ _ _ _ _ hm
        cases rex with
        | none =>
          simp only [Instr.wf, hwf, hfour rfl, hthree rfl rfl rfl, zero_append_ult_sixteen, zero_zero_append_ult_eight,
            Bool.and_self, Bool.or_true]
        | some x =>
          simp only [Instr.wf, hwf, hfour rfl, zero_append_ult_sixteen, Option.isSome_some, Bool.and_self, Bool.true_or]
      · cases h
    · cases h

theorem decodeVex2_wf (p : Prefixes) (bs rest : List Byte) (i : Instr) (h : decodeVex2 p bs = .instr i rest) :
    i.wf = true := by
  unfold decodeVex2 at h
  split at h
  · split at h
    · cases h
    · split at h
      · cases h
      · split at h
        · cases h
        · rename_i reg src rest' hm
          obtain ⟨hwf, -, hthree⟩ := decodeModRM_decodedFrom _ _ _ _ _ _ _ hm
          dsimp only at h
          split at h <;> cases h <;>
            simp only [Instr.wf, hwf, hthree rfl rfl rfl, zero_append_ult_sixteen, Bool.and_self]
  · cases h

theorem decodeVex3_wf (p : Prefixes) (bs rest : List Byte) (i : Instr) (h : decodeVex3 p bs = .instr i rest) :
    i.wf = true := by
  unfold decodeVex3 at h
  split at h
  · split at h
    · cases h
    · split at h
      · cases h
      · split at h
        · cases h
        · split at h
          · cases h
          · rename_i reg src rest' hm
            obtain ⟨hwf, hfour, -⟩ := decodeModRM_decodedFrom _ _ _ _ _ _ _ hm
            dsimp only at h
            split at h <;> cases h <;>
              simp only [Instr.wf, hwf, hfour rfl, zero_append_ult_sixteen, Bool.and_self]
  · cases h

theorem evexMaskWf_iff (vvvv : BitVec 4) (aaa : KReg) (z : Bool) :
    evexMaskWf vvvv aaa z = true ↔ (vvvv = 15 → ¬ (z = true ∧ aaa = 0)) := by
  rw [evexMaskWf, Bool.or_eq_true, bne_iff_ne, ← imp_iff_not_or]
  cases z <;> simp

theorem evexSaeWf_iff (vvvv : BitVec 4) (b : Bool) (src : Rm) :
    evexSaeWf vvvv b src = true ↔ (vvvv = 15 → ¬ (b = true ∧ src.isReg = true)) := by
  rw [evexSaeWf, Bool.or_eq_true, bne_iff_ne, ← imp_iff_not_or]
  cases b <;> simp

/-- R123, R125: an EVEX row is well-formed where its mask fields are, and `b = 1` with a register source selects
EVEX.512 or comes with a wrong `vvvv`. -/
theorem evexRow_wf (p : Prefixes) (vvvv : BitVec 4) (aaa : KReg) (z b : Bool) (dst : VReg) (src : Rm) (ll : BitVec 2)
    (i : Instr) (hsrc : src.wf = true) (hmask : evexMaskWf vvvv aaa z = true)
    (hsae : ll ≠ 2 → evexSaeWf vvvv b src = true)
    (h : evexRow p vvvv aaa z b dst src ll = some i) : i.wf = true := by
  unfold evexRow at h
  split at h
  · rename_i hll
    cases h
    simp [Instr.wf, hsrc, hmask, hsae (by simp [hll])]
  · split at h
    · rename_i hll
      cases h
      simp [Instr.wf, hsrc, hmask, hsae (by simp [hll])]
    · split at h
      · cases h
        simp [Instr.wf, hsrc, hmask]
      · cases h

theorem evexFields_wf (pol : SaeLLPolicy) (p : Prefixes) (p1 p2 : Byte) (dst : VReg) (src : Rm)
    (bs rest : List Byte) (i : Instr) (hsrc : src.wf = true) (h : evexFields pol p p1 p2 dst src bs = .instr i rest) :
    i.wf = true := by
  unfold evexFields at h
  dsimp only at h
  split at h
  · rename_i hvvvv
    split at h
    · rename_i j hrow
      cases h
      exact evexRow_wf _ _ _ _ _ _ _ _ _ hsrc
        ((evexMaskWf_iff _ _ _).mpr fun hv => absurd hv hvvvv)
        (fun _ => (evexSaeWf_iff _ _ _).mpr fun hv => absurd hv hvvvv) hrow
    · cases h
  · split at h
    · cases h
    · split at h
      · cases h
      · rename_i hz
        have hmask : evexMaskWf (vvvvField p1) (field3 p2 0) (isSet (bitField p2 7)) = true :=
          (evexMaskWf_iff _ _ _).mpr fun _ => hz
        split at h
        · cases pol with
          | refuse => cases h
          | vl512 =>
            cases h
            simp [Instr.wf, hsrc, hmask]
        · rename_i hsae
          split at h
          · rename_i j hrow
            cases h
            exact evexRow_wf _ _ _ _ _ _ _ _ _ hsrc hmask
              (fun hll => (evexSaeWf_iff _ _ _).mpr fun _ ⟨hb, hreg⟩ => hsae ⟨hb, hreg, hll⟩) hrow
          · cases h

theorem decodeEvex_wf (pol : SaeLLPolicy) (p : Prefixes) (bs rest : List Byte) (i : Instr)
    (h : decodeEvex pol p bs = .instr i rest) : i.wf = true := by
  unfold decodeEvex at h
  split at h
  · iterate 5
      split at h
      · cases h
    dsimp only at h
    split at h
    · cases h
    · rename_i reg src rest' hm
      obtain ⟨hsrc, -, -⟩ := decodeModRM_decodedFrom _ _ _ _ _ _ _ hm
      exact evexFields_wf _ _ _ _ _ _ _ _ _ hsrc h
  · cases h

/-! ## The whole decoder -/

theorem decodeOpcode_wf (pol : SaeLLPolicy) (p : Prefixes) (b : Byte) (bs rest : List Byte) (i : Instr)
    (h : decodeOpcode pol p b bs = .instr i rest) : i.wf = true := by
  unfold decodeOpcode at h
  split at h
  · split at h
    · cases h
    · split at h
      · exact decodeLegacy_wf _ _ _ _ _ h
      · cases h
  · split at h
    · exact decodeLegacy_wf _ _ _ _ _ h
    · split at h
      · exact decodeVex2_wf _ _ _ _ h
      · split at h
        · exact decodeVex3_wf _ _ _ _ h
        · split at h
          · exact decodeEvex_wf _ _ _ _ _ h
          · cases h

theorem decodeFrom_wf (pol : SaeLLPolicy) (p : Prefixes) (bs rest : List Byte) (i : Instr)
    (h : decodeFrom pol p bs = .instr i rest) : i.wf = true := by
  induction bs generalizing p with
  | nil => cases h
  | cons b bs ih =>
    rw [decodeFrom] at h
    split at h
    · split at h
      · cases h
      · exact ih _ h
    · split at h
      · split at h
        · cases h
        · exact ih _ h
      · split at h
        · cases h
        · exact decodeOpcode_wf _ _ _ _ _ _ h

/-- Settles O47: the prefixes are collected, and each format gives well-formed fields. -/
theorem decodedIsWellFormed : Obligations.DecodedIsWellFormed :=
  fun pol bs rest i h => decodeFrom_wf pol Prefixes.empty bs rest i h

end Sys2Proof
end

section
/-!
PROOFS for spec/20_memory.md R69 to R74: the effective address of each memory form, at both address sizes, and the scale
of an 8-bit displacement.
-/
namespace Sys2Proof.Machine

/-! ## Registers and index as the address computation reads them (R70, R73) -/

@[simp] theorem addrReg_addr64 (s : State) (r : Gpr) : s.addrReg false r = s.greg r := rfl

@[simp] theorem setWidth_addrReg (s : State) (a32 : Bool) (r : Gpr) :
    (s.addrReg a32 r).setWidth 32 = (s.greg r).setWidth 32 := by
  cases a32 with
  | false => rfl
  | true => simp [State.addrReg]

/-- An index of 0100b is no index. -/
@[simp] theorem indexPart_none (s : State) (a32 : Bool) (sc : BitVec 2) : s.indexPart a32 sc 4#4 = 0#64 := rfl

theorem indexPart_of_ne (s : State) (a32 : Bool) (sc : BitVec 2) (i : Gpr) (hi : i ≠ 4) :
    s.indexPart a32 sc i = s.addrReg a32 i * BitVec.ofNat 64 (2 ^ sc.toNat) := if_neg hi

/-- The low half of the index part is the low half of the index, scaled modulo 2^32. -/
theorem setWidth_indexPart (s : State) (a32 : Bool) (sc : BitVec 2) (i : Gpr) :
    (s.indexPart a32 sc i).setWidth 32 =
      if i = 4 then 0 else (s.greg i).setWidth 32 * BitVec.ofNat 32 (2 ^ sc.toNat) := by
  by_cases hi : i = 4
  · subst hi
    rfl
  · rw [indexPart_of_ne s a32 sc i hi, if_neg hi, BitVec.setWidth_mul _ _ (by decide), setWidth_addrReg,
      BitVec.setWidth_ofNat_of_le (by decide)]

/-- Sign extension does not change a 32-bit displacement modulo 2^32. -/
theorem setWidth_signExtend_disp32 (d : BitVec 32) : (d.signExtend 64).setWidth 32 = d := by
  refine BitVec.eq_of_getLsbD_eq fun i hi => ?_
  have h64 : i < 64 := by omega
  simp [BitVec.getElem_signExtend, hi, h64]

/-! ## The linear address (R73, R74) -/

/-- At 64-bit address size the offset is the sum itself. -/
theorem linearAddress_addr64 (s : State) (c : Operation) (m : MemForm) (h : c.pre.addr32 = false) :
    s.linearAddress c m = s.segBase c.pre.seg + s.addressSum false c.dispScale c.len m := by
  simp [State.linearAddress, State.offset, h]

/-- Under `67` the offset is the sum modulo 2^32, zero-extended. -/
theorem linearAddress_addr32 (s : State) (c : Operation) (m : MemForm) (h : c.pre.addr32 = true) :
    s.linearAddress c m =
      s.segBase c.pre.seg + ((s.addressSum true c.dispScale c.len m).setWidth 32).setWidth 64 := by
  simp [State.linearAddress, State.offset, h]

/-- Settles O56, form by form: the segment base and the form's own sum. -/
theorem effectiveAddressForms : Obligations.EffectiveAddressForms := by
  intro c s b i sc d d32 segbase haddr hseg
  have hbase : segbase = s.segBase c.pre.seg := hseg
  have hlin : ∀ m, s.linearAddress c m = segbase + s.addressSum false c.dispScale c.len m := fun m => by
    rw [hbase, linearAddress_addr64 s c m haddr]
  refine ⟨?base, fun hi => ?sib, ?sibNoIndex, fun hi => ?noBase, ?noBaseNoIndex, ?ripRel⟩ <;> rw [hlin]
  case base | ripRel => rfl
  case sib => simp only [State.addressSum, indexPart_of_ne s false sc i hi, addrReg_addr64]
  case sibNoIndex => simp [State.addressSum]
  case noBase => simp only [State.addressSum, indexPart_of_ne s false sc i hi, addrReg_addr64]
  case noBaseNoIndex => simp [State.addressSum]

/-- Settles O58: truncation to 32 bits goes through the sums and the product of the offset. -/
theorem addressSize : Obligations.AddressSize := by
  intro c s m haddr
  have hadd (x y : Quad) : (x + y).setWidth 32 = x.setWidth 32 + y.setWidth 32 :=
    BitVec.setWidth_add x y (by decide)
  refine ⟨(s.addressSum true c.dispScale c.len m).setWidth 32, linearAddress_addr32 s c m haddr, ?_, ?_, ?_, ?_⟩
  · rintro b d rfl
    simp only [State.addressSum, hadd, setWidth_addrReg]
  · rintro sc i b d rfl
    simp only [State.addressSum, hadd, setWidth_addrReg, setWidth_indexPart]
  · rintro sc i d rfl
    simp only [State.addressSum, hadd, setWidth_indexPart, setWidth_signExtend_disp32]
  · rintro d rfl
    simp only [State.addressSum, hadd, setWidth_signExtend_disp32, BitVec.setWidth_ofNat_of_le (show 32 ≤ 64 by decide)]

/-! ## The scale of an 8-bit displacement (R63, R72) -/

theorem broadcast_of_mem (c : Operation) (m : MemForm) (h : c.src = .mem m) : c.broadcast = c.b := by
  simp [Operation.broadcast, h, Rm.isReg]

theorem memBytes_of_broadcast (c : Operation) (h : c.broadcast = true) : c.memBytes = 4 := if_pos h

theorem memBytes_of_not_broadcast (c : Operation) (h : c.broadcast = false) : c.memBytes = c.form.vl / 16 := by
  simp [Operation.memBytes, h]

theorem dispScale_of_evex (c : Operation) (h : c.form.isEvex = true) : c.dispScale = c.memBytes := if_pos h

theorem dispScale_of_not_evex (c : Operation) (h : c.form.isEvex = false) : c.dispScale = 1 := by
  simp [Operation.dispScale, h]

/-- Settles O57: in the EVEX forms the scale is the number of bytes read, `VL / 16` or 4 for a broadcast. -/
theorem compressedDisplacement : Obligations.CompressedDisplacement := by
  intro c m hsrc
  have hfull : c.form.isEvex = true → c.b = false → c.dispScale = c.form.vl / 16 := fun hevex hb => by
    rw [dispScale_of_evex c hevex, memBytes_of_not_broadcast c (by rw [broadcast_of_mem c m hsrc, hb])]
  have hbcst : c.form.isEvex = true → c.b = true → c.dispScale = 4 := fun hevex hb => by
    rw [dispScale_of_evex c hevex, memBytes_of_broadcast c (by rw [broadcast_of_mem c m hsrc, hb])]
  refine ⟨fun hf hb => ?_, fun hf hb => ?_, fun hf hb => ?_, hbcst, dispScale_of_evex c, dispScale_of_not_evex c,
    fun _ => rfl, fun _ => rfl, fun _ _ _ _ _ _ _ => ⟨rfl, rfl⟩⟩ <;>
  rw [hfull (by rw [hf]; rfl) hb, hf] <;> rfl

end Sys2Proof.Machine
end

section
/-!
PROOFS for spec/20_memory.md R61, R13: little-endian numbers byte by byte, and a stored string of bytes read back.
-/
namespace Sys2Proof.Machine

/-- A statement about every byte of an operand, by offset. -/
theorem forall_operandBytes (ea : Quad) (n : Nat) (P : Quad → Prop) :
    (∀ a ∈ operandBytes ea n, P a) ↔ ∀ i < n, P (ea + BitVec.ofNat 64 i) := by
  simp [operandBytes]

/-- Byte `i` of a little-endian number is byte `i` of the string. -/
theorem ofNat_littleEndian_div (bs : List Byte) (i : Nat) (hi : i < bs.length) :
    BitVec.ofNat 8 (littleEndian bs / 2 ^ (8 * i)) = bs[i] := by
  induction bs generalizing i with
  | nil => simp at hi
  | cons b bs ih =>
    have hb : b.toNat < 256 := b.isLt
    cases i with
    | zero =>
      apply BitVec.eq_of_toNat_eq
      simp only [littleEndian, BitVec.toNat_ofNat, List.getElem_cons_zero]
      omega
    | succ i =>
      have hpow : 2 ^ (8 * (i + 1)) = 256 * 2 ^ (8 * i) := by rw [Nat.mul_succ, pow_add, mul_comm]; rfl
      have htail : littleEndian (b :: bs) / 256 = littleEndian bs := by
        simp only [littleEndian]
        omega
      rw [hpow, ← Nat.div_div_eq_div_mul, htail, ih i (by simpa using hi), List.getElem_cons_succ]

/-- The two ways to say the address of byte `i + 1`. -/
theorem add_ofNat_succ (a : Quad) (i : Nat) : a + BitVec.ofNat 64 (i + 1) = a + 1 + BitVec.ofNat 64 i := by
  rw [Nat.add_comm i 1, BitVec.ofNat_add, ← BitVec.add_assoc]
  rfl

/-- Within 2^64 bytes no later byte has the address of the first. -/
theorem toNat_ne_add_ofNat (a : Quad) (i : Nat) (hpos : 0 < i) (hi : i < 2 ^ 64) :
    a.toNat ≠ (a + BitVec.ofNat 64 i).toNat := by
  have ha := a.isLt
  rw [BitVec.toNat_add, BitVec.toNat_ofNat]
  omega

/-- R13: a store of bytes leaves every other address alone. -/
theorem read_writeBytes_other (bs : List Byte) (m : List Host.Cell) (a : Quad) (x : Nat)
    (hx : ∀ i < bs.length, x ≠ (a + BitVec.ofNat 64 i).toNat) :
    Memory.read (Memory.writeBytes m a bs) x = Memory.read m x := by
  induction bs generalizing m a with
  | nil => rfl
  | cons b bs ih =>
    have hhead : x ≠ a.toNat := by simpa using hx 0 (by simp)
    have htail : ∀ i < bs.length, x ≠ (a + 1 + BitVec.ofNat 64 i).toNat := fun i hi => by
      rw [← add_ofNat_succ]
      exact hx (i + 1) (by simpa using hi)
    calc Memory.read (Memory.writeBytes m a (b :: bs)) x
        = Memory.read (Memory.write a.toNat b m) x := ih _ _ htail
      _ = Memory.read m x := read_write_other m _ _ b hhead

/-- R13: stored bytes are read back in place. -/
theorem read_writeBytes_same (bs : List Byte) (m : List Host.Cell) (a : Quad) (hlen : bs.length ≤ 2 ^ 64) (i : Nat)
    (hi : i < bs.length) :
    Memory.read (Memory.writeBytes m a bs) (a + BitVec.ofNat 64 i).toNat = some bs[i] := by
  induction bs generalizing m a i with
  | nil => simp at hi
  | cons b bs ih =>
    rw [List.length_cons] at hlen hi
    cases i with
    | zero =>
      have hlater : ∀ i < bs.length, a.toNat ≠ (a + 1 + BitVec.ofNat 64 i).toNat := fun i hi => by
        rw [← add_ofNat_succ]
        exact toNat_ne_add_ofNat a (i + 1) (by omega) (by omega)
      calc Memory.read (Memory.writeBytes m a (b :: bs)) (a + BitVec.ofNat 64 0).toNat
          = Memory.read (Memory.writeBytes m a (b :: bs)) a.toNat := by simp
        _ = Memory.read (Memory.write a.toNat b m) a.toNat := read_writeBytes_other bs _ _ _ hlater
        _ = some b := read_write_same m _ b
    | succ i =>
      rw [add_ofNat_succ]
      exact ih _ _ (by omega) i (by omega)

/-- R61: byte `i` of a value read is the byte at `ea + i`. -/
theorem readByte_of_memRead_ok (s : State) (stack : Bool) (ea : Quad) (n x i : Nat)
    (h : s.memRead stack ea n = .ok x) (hi : i < n) :
    s.readByte (ea + BitVec.ofNat 64 i) = some (BitVec.ofNat 8 (x / 2 ^ (8 * i))) := by
  obtain ⟨hbytes, -, rfl⟩ := memRead_ok s stack ea n x h
  obtain ⟨-, -, -, hread⟩ := (forall_operandBytes ea n _).mp hbytes i hi
  obtain ⟨b, hb⟩ := Option.isSome_iff_exists.mp hread
  rw [ofNat_littleEndian_div _ i (by simpa [operandBytes] using hi)]
  simp [operandBytes, State.byteAt, hb]

/-- A value read has no bits above its bytes. -/
theorem lt_of_memRead_ok (s : State) (stack : Bool) (ea : Quad) (n x : Nat) (h : s.memRead stack ea n = .ok x) :
    x < 2 ^ (8 * n) := by
  obtain ⟨-, -, rfl⟩ := memRead_ok s stack ea n x h
  simpa [operandBytes, pow_mul] using littleEndian_lt ((operandBytes ea n).map s.byteAt)

/-- Settles O59: the data read byte by byte, and the two laws of a store of bytes. -/
theorem memoryIsLittleEndian : Obligations.MemoryIsLittleEndian :=
  ⟨fun s stack ea n x h => ⟨lt_of_memRead_ok s stack ea n x h, fun i => readByte_of_memRead_ok s stack ea n x i h⟩,
    fun m a bs hlen => ⟨read_writeBytes_same bs m a hlen, read_writeBytes_other bs m a⟩⟩

end Sys2Proof.Machine
end

section
/-!
PROOFS for spec/20_memory.md R65, R66, R68, R74 and spec/60_exceptions.md R206 to R208: when the data read faults or is
refused, and that its outcome is the instruction's.
-/
namespace Sys2Proof.Machine

/-! ## The data read: non-canonical, device, alignment -/

/-- R74: one non-canonical byte is enough. -/
theorem memRead_of_not_canonical (s : State) (stack : Bool) (ea : Quad) (n k : Nat) (hk : k < n)
    (hcan : canonical s.proc.linear (ea + BitVec.ofNat 64 k) = false) :
    s.memRead stack ea n = .fault (if stack then .stackFault else .generalProtection) := by
  refine if_pos (List.any_eq_true.mpr ⟨ea + BitVec.ofNat 64 k, ?_, by simp [hcan]⟩)
  exact List.mem_map_of_mem (List.mem_range.mpr hk)

theorem any_not_canonical_eq_false (s : State) (ea : Quad) (n : Nat)
    (hcan : ∀ i < n, canonical s.proc.linear (ea + BitVec.ofNat 64 i) = true) :
    (operandBytes ea n).any (fun a => !canonical s.proc.linear a) = false := by
  rw [List.any_eq_false, forall_operandBytes]
  simpa using hcan

/-- R68: one byte in a device is enough, the operand being canonical. -/
theorem memRead_of_device (s : State) (stack : Bool) (ea : Quad) (n k : Nat) (hk : k < n)
    (hcan : ∀ i < n, canonical s.proc.linear (ea + BitVec.ofNat 64 i) = true)
    (hdev : s.inRegion .sideEffects (ea + BitVec.ofNat 64 k) = true) :
    s.memRead stack ea n = .refused .readSideEffects := by
  have hany : (operandBytes ea n).any (s.inRegion .sideEffects) = true :=
    List.any_eq_true.mpr ⟨_, List.mem_map_of_mem (List.mem_range.mpr hk), hdev⟩
  simp only [State.memRead, any_not_canonical_eq_false s ea n hcan, hany]
  rfl

/-- Canonical, no device, no breakpoint: then `#PF` and `#AC` are the data read's faults. -/
theorem memRead_of_protection (s : State) (stack : Bool) (ea : Quad) (n : Nat) (e : Exception)
    (hclear : ∀ i < n, canonical s.proc.linear (ea + BitVec.ofNat 64 i) = true ∧
      s.inRegion .sideEffects (ea + BitVec.ofNat 64 i) = false ∧ ea + BitVec.ofNat 64 i ∉ s.breakpoints)
    (hprot : s.protection ea n = some e) : s.memRead stack ea n = .fault e := by
  have hcan := any_not_canonical_eq_false s ea n fun i hi => (hclear i hi).1
  have hdev : (operandBytes ea n).any (s.inRegion .sideEffects) = false := by
    rw [List.any_eq_false, forall_operandBytes]
    exact fun i hi => by simp [(hclear i hi).2.1]
  have hbp : (operandBytes ea n).any (fun a => s.breakpoints.contains a) = false := by
    rw [List.any_eq_false, forall_operandBytes]
    exact fun i hi => by simp [(hclear i hi).2.2]
  simp only [State.memRead, hcan, hdev, hbp, hprot]
  rfl

/-- Every byte of an operand can be read. -/
theorem unreadable_eq_nil_iff (s : State) (ea : Quad) (n : Nat) :
    s.unreadable ea n = [] ↔ ∀ i < n, (s.readByte (ea + BitVec.ofNat 64 i)).isSome = true := by
  rw [State.unreadable, List.filter_eq_nil_iff, forall_operandBytes]
  simp [Option.isSome_iff_ne_none]

/-- R65: `#AC` needs alignment checking and a misaligned address. -/
theorem misaligned_true (s : State) (ea : Quad) (n : Nat) (h : s.misaligned ea n = true) :
    s.alignmentChecking = true ∧ ea.toNat % n ≠ 0 := by
  simp only [State.misaligned, Bool.and_eq_true, decide_eq_true_eq] at h
  exact h.1

/-- R206, R207: up to 8 bytes these are enough. -/
theorem misaligned_of_le_eight (s : State) (ea : Quad) (n : Nat) (hn : n ≤ 8) (hcheck : s.alignmentChecking = true)
    (hmod : ea.toNat % n ≠ 0) : s.misaligned ea n = true := by
  simp [State.misaligned, hn, hcheck, hmod]

theorem alignmentChecking_iff (s : State) :
    s.alignmentChecking = true ↔ s.cr0AM = true ∧ s.flagAC = true ∧ s.cpl = 3 := by
  simp [State.alignmentChecking, State.user, and_assoc]

/-- `#AC` is a fault of protection only where the operand is misaligned. -/
theorem misaligned_of_protection (s : State) (ea : Quad) (n : Nat) (h : s.protection ea n = some .alignmentCheck) :
    s.misaligned ea n = true := by
  unfold State.protection at h
  split at h
  case h_1 => cases h
  case h_2 hmis => exact hmis
  case h_3 => cases h
  case h_4 hmis => exact hmis

/-- Where every byte can be read, a misaligned operand leaves `#AC` alone. -/
theorem protection_of_readable_misaligned (s : State) (ea : Quad) (n : Nat)
    (hread : ∀ i < n, (s.readByte (ea + BitVec.ofNat 64 i)).isSome = true) (hmis : s.misaligned ea n = true) :
    s.protection ea n = some .alignmentCheck := by
  simp only [State.protection, (unreadable_eq_nil_iff s ea n).mpr hread, hmis]

/-- The data read raises `#AC` only where the operand is misaligned. -/
theorem misaligned_of_memRead_fault (s : State) (stack : Bool) (ea : Quad) (n : Nat)
    (h : s.memRead stack ea n = .fault .alignmentCheck) : s.misaligned ea n = true := by
  unfold State.memRead at h
  split at h
  · cases stack <;> cases h
  · split at h
    · cases h
    · split at h
      · cases h
      · split at h
        next e hprot =>
          cases h
          exact misaligned_of_protection s ea n hprot
        next => cases h

/-! ## The data read's outcome is the instruction's (R66, R212) -/

/-- The data read's fault is the instruction's, with the state unchanged, whatever the writemask. -/
theorem exec_of_memRead_fault (i : Instr) (m : MemForm) (s : State) (e : Exception) (hwf : i.wf = true)
    (hv : (operationOf i).vvvv = 15) (hp : s.premises (operationOf i).form) (hsrc : (operationOf i).src = .mem m)
    (hread : s.memRead ((operationOf i).stackAccess m) (s.linearAddress (operationOf i) m) (operationOf i).memBytes =
      .fault e) : exec i s = .fault (.raised e s) := by
  have hsource : s.readSource (operationOf i) = .fault e := by simp only [State.readSource, hsrc, hread]
  simp [exec_eq, convertPacked, raise, hv, reserved_of_wf i hwf hv, classCheck_of_premises _ _ hp, hsource]

/-- The data read's refusal is the instruction's. -/
theorem exec_of_memRead_refused (i : Instr) (m : MemForm) (s : State) (r : Refusal) (hwf : i.wf = true)
    (hv : (operationOf i).vvvv = 15) (hp : s.premises (operationOf i).form) (hsrc : (operationOf i).src = .mem m)
    (hread : s.memRead ((operationOf i).stackAccess m) (s.linearAddress (operationOf i) m) (operationOf i).memBytes =
      .refused r) : exec i s = .refused r := by
  have hsource : s.readSource (operationOf i) = .refused r := by simp only [State.readSource, hsrc, hread]
  simp [exec_eq, convertPacked, hv, reserved_of_wf i hwf hv, classCheck_of_premises _ _ hp, hsource]

/-- Only a memory source faults, and its fault is the data read's. -/
theorem readSource_fault (s : State) (c : Operation) (e : Exception) (h : s.readSource c = .fault e) :
    ∃ m, c.src = .mem m ∧ s.memRead (c.stackAccess m) (s.linearAddress c m) c.memBytes = .fault e := by
  unfold State.readSource at h
  split at h
  next => cases h
  next m hsrc =>
    split at h
    next => cases h
    next e' hread =>
      cases h
      exact ⟨m, hsrc, hread⟩
    next => cases h

theorem simdException_ne_alignmentCheck (s : State) : s.simdException ≠ .alignmentCheck := by
  unfold State.simdException
  split <;> simp

/-- An instruction raises `#AC` only from its memory source, with the state unchanged. -/
theorem exec_alignmentCheck (i : Instr) (s t : State) (h : exec i s = .fault (.raised .alignmentCheck t)) :
    t = s ∧ ∃ m, (operationOf i).src = .mem m ∧
      s.misaligned (s.linearAddress (operationOf i) m) (operationOf i).memBytes = true := by
  rw [exec_eq] at h
  rcases convertPacked_fault _ _ _ _ h with ⟨ht, ⟨-, hud⟩ | hclass | hsource⟩ | ⟨_, -, -, hsimd, -⟩
  · cases hud
  · rcases classCheck_some _ _ _ hclass with hud | hnm
    · cases hud
    · cases hnm
  · obtain ⟨m, hsrc, hread⟩ := readSource_fault _ _ _ hsource
    exact ⟨ht, m, hsrc, misaligned_of_memRead_fault _ _ _ _ hread⟩
  · exact absurd hsimd.symm (simdException_ne_alignmentCheck s)

/-- Settles O27: the data read looks at canonical form first, and its fault is the instruction's. -/
theorem nonCanonicalOperandFaults : Obligations.NonCanonicalOperandFaults :=
  fun i m s k hwf hv hp hsrc hk hcan =>
    exec_of_memRead_fault i m s _ hwf hv hp hsrc (memRead_of_not_canonical s _ _ _ k hk hcan)

/-- Settles O30: past canonical form the data read refuses a device. -/
theorem deviceSourceRefused : Obligations.DeviceSourceRefused :=
  fun i m s k hwf hv hp hsrc hcan hk hdev =>
    exec_of_memRead_refused i m s _ hwf hv hp hsrc (memRead_of_device s _ _ _ k hk hcan hdev)

/-- Settles O29: `#AC` comes from a misaligned operand alone; a readable misaligned operand of 8 bytes or fewer leaves
the data read no other outcome. -/
theorem alignmentCheck : Obligations.AlignmentCheck := by
  refine ⟨fun i s t h => ?_, fun i m s ea hwf hv hp hsrc hea hn hcheck hmod hbytes => ?_⟩
  · obtain ⟨ht, m, hsrc, hmis⟩ := exec_alignmentCheck i s t h
    obtain ⟨hcheck, hmod⟩ := misaligned_true _ _ _ hmis
    obtain ⟨ham, hac, hcpl⟩ := (alignmentChecking_iff s).mp hcheck
    exact ⟨ht, ham, hac, hcpl, m, hsrc, hmod⟩
  · subst hea
    refine exec_of_memRead_fault i m s _ hwf hv hp hsrc (memRead_of_protection s _ _ _ _ (fun k hk => ?_) ?_)
    · obtain ⟨hcan, hdev, hbp, -⟩ := hbytes k hk
      exact ⟨hcan, hdev, hbp⟩
    · refine protection_of_readable_misaligned s _ _ (fun k hk => ?_) (misaligned_of_le_eight s _ _ hn hcheck hmod)
      obtain ⟨-, -, -, hread⟩ := hbytes k hk
      exact hread

end Sys2Proof.Machine
end

section
/-!
PROOFS for spec/40_cvtps2pd.md R144 to R146 with spec/20_memory.md R64: the EVEX forms, a broadcast source.
-/
namespace Sys2Proof.Machine

/-- The fields of an EVEX instruction. -/
theorem operationOf_of_isEvexInstr (f : Form) (p : Prefixes) (vvvv : BitVec 4) (aaa : KReg) (z b : Bool) (dst : VReg)
    (src : Rm) (i : Instr) (h : isEvexInstr f p vvvv aaa z b dst src i) :
    operationOf i = opEvex f p vvvv aaa z b dst src i.length := by
  rcases h with ⟨rfl, rfl⟩ | ⟨rfl, rfl⟩ | ⟨rfl, rfl⟩ <;> rfl

theorem ne_legacy_of_isEvexInstr (f : Form) (p : Prefixes) (vvvv : BitVec 4) (aaa : KReg) (z b : Bool) (dst : VReg)
    (src : Rm) (i : Instr) (h : isEvexInstr f p vvvv aaa z b dst src i) : f ≠ .legacy := by
  rcases h with ⟨rfl, -⟩ | ⟨rfl, -⟩ | ⟨rfl, -⟩ <;> simp

/-- A memory source has no `sae`, so only zeroing without a writemask is reserved (R123). -/
theorem reserved_of_mem (c : Operation) (m : MemForm) (hsrc : c.src = .mem m) (hz : ¬ (c.z = true ∧ c.aaa = 0)) :
    c.reserved = none := by
  simpa [Operation.reserved, Operation.sae, hsrc, Rm.isReg] using hz

theorem sae_of_mem (c : Operation) (m : MemForm) (hsrc : c.src = .mem m) : c.sae = false := by
  simp [Operation.sae, hsrc, Rm.isReg]

/-- A readable memory source gives its bytes. -/
theorem readSource_of_readable (s : State) (c : Operation) (m : MemForm) (hsrc : c.src = .mem m)
    (hread : s.readable (s.linearAddress c m) c.memBytes) :
    s.readSource c =
      .ok (c.memValue (littleEndian ((operandBytes (s.linearAddress c m) c.memBytes).map s.byteAt))) := by
  simp only [State.readSource, hsrc, memRead_of_readable s _ _ _ hread]

/-- An instruction without `sae`, past its checks, whose source elements are `w` and signal nothing unmasked:
completion, the elements and the upper bits at once. -/
theorem exec_completes (i : Instr) (s : State) (src : SrcValue) (w : Nat → Single)
    (hv : (operationOf i).vvvv = 15) (hr : (operationOf i).reserved = none) (hp : s.premises (operationOf i).form)
    (hs : s.readSource (operationOf i) = .ok src) (hsae : (operationOf i).sae = false)
    (hw : ∀ j < (operationOf i).form.kl, srcLane src j = w j)
    (hmask : allMasked (elementSignals (operationOf i).form.kl (s.maskBit (operationOf i).aaa) w s.daz) s.mxcsr) :
    ∃ x, exec i s = .next (s.completed (operationOf i).dst x
        (elementSignals (operationOf i).form.kl (s.maskBit (operationOf i).aaa) w s.daz) i.length) ∧
      lanesAre (operationOf i).form.kl (s.maskBit (operationOf i).aaa) (operationOf i).z w s.daz
        (s.vreg (operationOf i).dst) x ∧
      ∀ k, (operationOf i).form.vl ≤ k →
        x.getLsbD k = if (operationOf i).form = .legacy then (s.vreg (operationOf i).dst).getLsbD k else false := by
  have hsig : s.signals (operationOf i) src =
      elementSignals (operationOf i).form.kl (s.maskBit (operationOf i).aaa) w s.daz := by
    rw [signals_eq, hsae, elementSignals_congr _ _ _ w _ hw]
    rfl
  refine ⟨s.destValue (operationOf i) src, ?_, ?_, upper_destValue s (operationOf i) src⟩
  · rw [exec_ready i s src hv hr hp hs, finish_masked s _ src (by rwa [hsig]), hsig, operationOf_len]
  · exact lanesAre_congr _ _ _ _ _ _ _ _ hw (lanesAre_destValue s (operationOf i) src)

/-- Settles O12: four readable bytes are the whole operand, and each element of the source is their word. -/
theorem evexBroadcastResult : Obligations.EvexBroadcastResult := by
  intro f p aaa z dst m i s ea hi hz hp hea hread hmask
  subst hea
  have hop := operationOf_of_isEvexInstr _ _ _ _ _ _ _ _ _ hi
  have hsrc : (operationOf i).src = .mem m := by rw [hop]; rfl
  have hbcst : (operationOf i).broadcast = true := by rw [broadcast_of_mem _ m hsrc, hop]; rfl
  rw [← memBytes_of_broadcast _ hbcst] at hread
  obtain ⟨x, hnext, hlanes, hupper⟩ :=
    exec_completes i s _ (fun _ => s.wordAt (s.linearAddress (operationOf i) m))
      (by rw [hop]; rfl) (reserved_of_mem _ m hsrc (by rwa [hop])) (by rwa [hop])
      (readSource_of_readable s _ m hsrc hread) (sae_of_mem _ m hsrc)
      (fun j hj => srcLane_broadcast s _ _ j hbcst hj) (by rw [hop] at hmask ⊢; exact hmask)
  rw [hop] at hnext hlanes hupper ⊢
  exact ⟨x, hnext, hlanes, fun k hk => (hupper k hk).trans (if_neg (ne_legacy_of_isEvexInstr _ _ _ _ _ _ _ _ _ hi))⟩

end Sys2Proof.Machine
end

section
/-!
PROOFS for spec/30_encoding.md R92 to R98, R121, R127: the legacy prefixes, the byte that tells the format, and the `W`
bits.
-/
namespace Sys2Proof

/-! ## The byte after the prefixes (R135 steps 1 to 3) -/

theorem decodeFrom_of_not_prefix (pol : SaeLLPolicy) (p : Prefixes) (b : Byte) (bs : List Byte)
    (hseg : segmentOf b = none) (haddr : b ≠ 0x67) (hforbidden : isForbiddenPrefix b = false) :
    decodeFrom pol p (b :: bs) = decodeOpcode pol p b bs := by
  simp only [decodeFrom, hseg, if_neg haddr, hforbidden, Bool.false_eq_true, if_false]

theorem decodeFrom_legacy (pol : SaeLLPolicy) (p : Prefixes) (bs : List Byte) :
    decodeFrom pol p (0x0F :: bs) = decodeLegacy p none bs :=
  decodeFrom_of_not_prefix pol p 0x0F bs (by decide) (by decide) (by decide)

theorem decodeFrom_vex2 (pol : SaeLLPolicy) (p : Prefixes) (bs : List Byte) :
    decodeFrom pol p (0xC5 :: bs) = decodeVex2 p bs :=
  decodeFrom_of_not_prefix pol p 0xC5 bs (by decide) (by decide) (by decide)

theorem decodeFrom_vex3 (pol : SaeLLPolicy) (p : Prefixes) (bs : List Byte) :
    decodeFrom pol p (0xC4 :: bs) = decodeVex3 p bs :=
  decodeFrom_of_not_prefix pol p 0xC4 bs (by decide) (by decide) (by decide)

theorem decodeFrom_evex (pol : SaeLLPolicy) (p : Prefixes) (bs : List Byte) :
    decodeFrom pol p (0x62 :: bs) = decodeEvex pol p bs :=
  decodeFrom_of_not_prefix pol p 0x62 bs (by decide) (by decide) (by decide)

/-- A REX byte is none of the legacy prefixes. -/
theorem not_prefix_of_rex (b : Byte) (h : high4 b = 4) :
    segmentOf b = none ∧ b ≠ 0x67 ∧ isForbiddenPrefix b = false := by
  revert b
  decide

theorem decodeFrom_rex (pol : SaeLLPolicy) (p : Prefixes) (b op : Byte) (bs : List Byte) (h : high4 b = 4) :
    decodeFrom pol p (b :: op :: bs) =
      if op = 0x0F then decodeLegacy p (some b) bs else .refuse .rexNotBeforeOpcode := by
  obtain ⟨hseg, haddr, hforbidden⟩ := not_prefix_of_rex b h
  rw [decodeFrom_of_not_prefix pol p b _ hseg haddr hforbidden, decodeOpcode, if_pos h]

theorem high4_append (x y : BitVec 4) : high4 (x ++ y) = x := by
  revert x y
  decide

/-! ## Refused prefixes (R92, R94, R95, R98, R127) -/

theorem decodeFrom_forbidden (pol : SaeLLPolicy) (p : Prefixes) (b : Byte) (bs : List Byte)
    (h : b = 0x66 ∨ b = 0xF2 ∨ b = 0xF3 ∨ b = 0xF0) : decodeFrom pol p (b :: bs) = .refuse .forbiddenPrefix := by
  have hseg : segmentOf b = none := by rcases h with rfl | rfl | rfl | rfl <;> decide
  have haddr : b ≠ 0x67 := by rcases h with rfl | rfl | rfl | rfl <;> decide
  have hforbidden : isForbiddenPrefix b = true := by rcases h with rfl | rfl | rfl | rfl <;> decide
  simp only [decodeFrom, hseg, if_neg haddr, hforbidden, if_true]

theorem decodeFrom_second_seg (pol : SaeLLPolicy) (p : Prefixes) (sg : Segment) (bs : List Byte) (h : p.seg ≠ none) :
    decodeFrom pol p (sg.byte :: bs) = .refuse .repeatedPrefix := by
  rw [decodeFrom]
  simp [Option.isSome_iff_ne_none.mpr h]

theorem decodeFrom_second_addr32 (pol : SaeLLPolicy) (p : Prefixes) (bs : List Byte) (h : p.addr32 = true) :
    decodeFrom pol p (0x67 :: bs) = .refuse .repeatedPrefix := by
  rw [decodeFrom]
  simp [h]

/-- Settles O49: the admitted prefixes are collected, and the byte after them is refused for its own reason. -/
theorem invalidPrefixRefused : Obligations.InvalidPrefixRefused := by
  intro pol p pre bs hpre
  simp only [decode_spelledBy pol p pre _ hpre]
  refine ⟨fun b hb => decodeFrom_forbidden pol p b bs hb, fun sg hsg => decodeFrom_second_seg pol p sg bs hsg,
    fun haddr => decodeFrom_second_addr32 pol p bs haddr, fun x op hop => ?_⟩
  rw [decodeFrom_rex pol p _ op bs (high4_append 4#4 x), if_neg hop]

/-- Settles O50: both orders are spellings of one and the same prefixes. -/
theorem prefixOrderIrrelevant : Obligations.PrefixOrderIrrelevant :=
  fun pol sg bs =>
    calc decode pol (0x67 :: sg.byte :: bs)
      _ = decodeFrom pol ⟨some sg, true⟩ bs := decode_spelledBy pol ⟨some sg, true⟩ [0x67, sg.byte] bs (.inr rfl)
      _ = decode pol (sg.byte :: 0x67 :: bs) :=
        (decode_spelledBy pol ⟨some sg, true⟩ [sg.byte, 0x67] bs (.inl rfl)).symm

/-! ## The `W` bits (R121) -/

/-- VEX3 reads `pp`, `L` and `vvvv` of its second byte, not `W`. -/
theorem decodeVex3_congr (p : Prefixes) (p0 p1 p1' : Byte) (bs : List Byte) (hpp : field2 p1 0 = field2 p1' 0)
    (hl : bitField p1 2 = bitField p1' 2) (hvvvv : vvvvField p1 = vvvvField p1') :
    decodeVex3 p (p0 :: p1 :: bs) = decodeVex3 p (p0 :: p1' :: bs) := by
  cases bs <;> simp only [decodeVex3, hpp, hl, hvvvv]

/-- LEGACY reads `R`, `X` and `B` of its REX byte, not `W`. -/
theorem decodeLegacy_congr (p : Prefixes) (x x' : Byte) (bs : List Byte) (hr : bitField x 2 = bitField x' 2)
    (hx : bitField x 1 = bitField x' 1) (hb : bitField x 0 = bitField x' 0) :
    decodeLegacy p (some x) bs = decodeLegacy p (some x') bs := by
  cases bs <;> simp only [decodeLegacy, hr, hx, hb, Option.isSome_some]

/-- The fields of the second byte of VEX3, whatever `W`. -/
theorem vex3_fields (w : BitVec 1) (vvvv : BitVec 4) (l : BitVec 1) :
    field2 (w ++ vvvv ++ l ++ 0#2) 0 = 0 ∧ bitField (w ++ vvvv ++ l ++ 0#2) 2 = l ∧
      vvvvField (w ++ vvvv ++ l ++ 0#2) = vvvv := by
  revert w vvvv l
  decide

/-- The fields of a REX byte, whatever `W`. -/
theorem rex_fields (w : BitVec 1) (rxb : BitVec 3) :
    high4 (4#4 ++ w ++ rxb) = 4 ∧ bitField (4#4 ++ w ++ rxb) 2 = rxb.extractLsb' 2 1 ∧
      bitField (4#4 ++ w ++ rxb) 1 = rxb.extractLsb' 1 1 ∧ bitField (4#4 ++ w ++ rxb) 0 = rxb.extractLsb' 0 1 := by
  revert w rxb
  decide

theorem bitField_evexW (x : BitVec 7) : bitField (1#1 ++ x) 7 = 1 := by
  revert x
  decide

/-- EVEX bytes with a wrong fixed field are refused: the map, `W`, P1 bit 2 or `pp` (R121, R124). -/
theorem decodeEvex_refuses (pol : SaeLLPolicy) (p : Prefixes) (p0 p1 p2 op : Byte) (bs : List Byte)
    (h : low4 p0 ≠ 1 ∨ bitField p1 7 ≠ 0 ∨ bitField p1 2 ≠ 1 ∨ field2 p1 0 ≠ 0) :
    ∃ r, decodeEvex pol p (p0 :: p1 :: p2 :: op :: bs) = .refuse r := by
  rw [decodeEvex]
  split
  · exact ⟨_, rfl⟩
  · split
    · exact ⟨_, rfl⟩
    · split
      · exact ⟨_, rfl⟩
      · split
        · exact ⟨_, rfl⟩
        · rename_i hmap hw hfixed hpp
          rcases h with h | h | h | h
          · exact absurd h hmap
          · exact absurd h hw
          · exact absurd h hfixed
          · exact absurd h hpp

/-- Settles O51: past the prefixes, no field that the decoder reads of a VEX3 or REX byte holds `W`, and EVEX asks for
`W = 0`. -/
theorem wBits : Obligations.WBits := by
  intro pol p pre bs hpre
  simp only [decode_spelledBy pol p pre _ hpre]
  refine ⟨fun r vvvv l => ?_, fun rxb => ?_, fun p0 p2 op x => ?_⟩
  · obtain ⟨hpp1, hl1, hvvvv1⟩ := vex3_fields 1#1 vvvv l
    obtain ⟨hpp0, hl0, hvvvv0⟩ := vex3_fields 0#1 vvvv l
    rw [decodeFrom_vex3, decodeFrom_vex3]
    exact decodeVex3_congr p _ _ _ _ (hpp1.trans hpp0.symm) (hl1.trans hl0.symm) (hvvvv1.trans hvvvv0.symm)
  · obtain ⟨hrex1, hr1, hx1, hb1⟩ := rex_fields 1#1 rxb
    obtain ⟨hrex0, hr0, hx0, hb0⟩ := rex_fields 0#1 rxb
    rw [decodeFrom_rex pol p _ _ _ hrex1, decodeFrom_rex pol p _ _ _ hrex0, if_pos rfl, if_pos rfl]
    exact decodeLegacy_congr p _ _ _ (hr1.trans hr0.symm) (hx1.trans hx0.symm) (hb1.trans hb0.symm)
  · rw [decodeFrom_evex]
    exact decodeEvex_refuses pol p p0 _ p2 op bs (.inr (.inl (by rw [bitField_evexW]; decide)))

end Sys2Proof
end

section
/-!
PROOFS for spec/30_encoding.md R93 to R109: each field comes back out of the byte it is packed in, operand 2 out of its
bytes, and each format out of its bytes.
-/
namespace Sys2Proof

/-! ## The fields of the packed bytes -/

/-- ModRM and SIB (R104, R108). -/
theorem packModRM_fields (mod : BitVec 2) (reg rm : BitVec 3) :
    field2 (packModRM mod reg rm) 6 = mod ∧ field3 (packModRM mod reg rm) 3 = reg ∧
      field3 (packModRM mod reg rm) 0 = rm := by
  revert mod reg rm
  decide

/-- REX (R95). -/
theorem rexByte_fields (r x b : BitVec 1) :
    high4 (rexByte r x b) = 4 ∧ bitField (rexByte r x b) 2 = r ∧ bitField (rexByte r x b) 1 = x ∧
      bitField (rexByte r x b) 0 = b := by
  revert r x b
  decide

/-- VEX2 (R96). -/
theorem vex2Byte_fields (r : BitVec 1) (vvvv : BitVec 4) (l : BitVec 1) :
    field2 (vex2Byte r vvvv l) 0 = 0 ∧ ~~~(bitField (vex2Byte r vvvv l) 7) = r ∧
      vvvvField (vex2Byte r vvvv l) = vvvv ∧ bitField (vex2Byte r vvvv l) 2 = l := by
  revert r vvvv l
  decide

/-- The first byte of VEX3 (R97). -/
theorem vex3Byte0_fields (r x b : BitVec 1) :
    (vex3Byte0 r x b).extractLsb' 0 5 = 1#5 ∧ ~~~(bitField (vex3Byte0 r x b) 7) = r ∧
      ~~~(bitField (vex3Byte0 r x b) 6) = x ∧ ~~~(bitField (vex3Byte0 r x b) 5) = b := by
  revert r x b
  decide

/-- The first byte of EVEX (R100). -/
theorem evexByte0_fields (r x b r' : BitVec 1) :
    low4 (evexByte0 r x b r') = 1 ∧ ~~~(bitField (evexByte0 r x b r') 7) = r ∧
      ~~~(bitField (evexByte0 r x b r') 6) = x ∧ ~~~(bitField (evexByte0 r x b r') 5) = b ∧
      ~~~(bitField (evexByte0 r x b r') 4) = r' := by
  revert r x b r'
  decide

/-- The second byte of EVEX (R100). -/
theorem evexByte1_fields (vvvv : BitVec 4) :
    bitField (evexByte1 vvvv) 7 = 0 ∧ bitField (evexByte1 vvvv) 2 = 1 ∧ field2 (evexByte1 vvvv) 0 = 0 ∧
      vvvvField (evexByte1 vvvv) = vvvv := by
  revert vvvv
  decide

/-- The fields that the decoder reads of the third byte of EVEX, with the stored `V'` (R100, R124). -/
def EvexP2 (p2 : Byte) (z : Bool) (ll : BitVec 2) (b : Bool) (v' : BitVec 1) (aaa : KReg) : Prop :=
  isSet (bitField p2 7) = z ∧ p2.extractLsb' 5 2 = ll ∧ isSet (bitField p2 4) = b ∧ bitField p2 3 = v' ∧
    field3 p2 0 = aaa

/-- The third byte of EVEX with any stored `V'`. -/
theorem evexP2_packed (z : Bool) (ll : BitVec 2) (b : Bool) (v' : BitVec 1) (aaa : KReg) :
    EvexP2 (BitVec.ofBool z ++ ll ++ BitVec.ofBool b ++ v' ++ aaa) z ll b v' aaa := by
  unfold EvexP2
  revert z ll b v' aaa
  decide

theorem evexP2_evexByte2 (z : Bool) (ll : BitVec 2) (b : Bool) (aaa : KReg) :
    EvexP2 (evexByte2 z ll b aaa) z ll b 1 aaa :=
  evexP2_packed z ll b 1#1 aaa

/-! ## Register numbers out of their bits (R106) -/

theorem gprHigh_append_gprLow (r : Gpr) : gprHigh r ++ gprLow r = r := by
  revert r
  decide

theorem gprHigh_of_ult_eight (r : Gpr) (h : r.ult 8 = true) : gprHigh r = 0 := by
  revert r
  decide

/-- A vector register number is `R'`, `R` and `reg`, or `X`, `B` and `rm`. -/
theorem dst_append (n : VReg) : dstR' n ++ dstR n ++ dstLow n = n := by
  revert n
  decide

theorem dstR'_of_ult_sixteen (n : VReg) (h : n.ult 16 = true) : dstR' n = 0 := by
  revert n
  decide

theorem dstR_of_ult_eight (n : VReg) (h : n.ult 8 = true) : dstR n = 0 := by
  revert n
  decide

/-- A destination below 16 needs no `R'`. -/
theorem dst_append_of_ult_sixteen (n : VReg) (h : n.ult 16 = true) : 0#1 ++ dstR n ++ dstLow n = n := by
  calc 0#1 ++ dstR n ++ dstLow n = dstR' n ++ dstR n ++ dstLow n := by rw [dstR'_of_ult_sixteen n h]; rfl
    _ = n := dst_append n

theorem ult_sixteen_of_ult_eight (n : VReg) (h : n.ult 8 = true) : n.ult 16 = true := by
  revert n
  decide

/-- The fifth bit of a register source, which only EVEX can spell. -/
theorem fifth_bit_of_fourBit (src : Rm) (h : src.fourBit = true) (n : VReg) (hsrc : src = .reg n) : 0 = dstR' n := by
  subst hsrc
  exact (dstR'_of_ult_sixteen n h).symm

theorem fourBit_of_threeBit (src : Rm) (h : src.threeBit = true) : src.fourBit = true := by
  cases src with
  | reg n => exact ult_sixteen_of_ult_eight n h
  | mem m => rfl

/-- An operand that needs no extension bit has none (R95, R99). -/
theorem bits_of_threeBit (src : Rm) (h : src.threeBit = true) : src.bitX = 0 ∧ src.bitB = 0 := by
  cases src with
  | reg n => exact ⟨dstR'_of_ult_sixteen n (ult_sixteen_of_ult_eight n h), dstR_of_ult_eight n h⟩
  | mem m =>
    cases m with
    | ripRel d => exact ⟨rfl, rfl⟩
    | base b d => exact ⟨rfl, gprHigh_of_ult_eight b h⟩
    | sib sc i b d =>
      obtain ⟨hi, hb⟩ := Bool.and_eq_true_iff.mp h
      exact ⟨gprHigh_of_ult_eight i hi, gprHigh_of_ult_eight b hb⟩
    | sibNoBase sc i d => exact ⟨gprHigh_of_ult_eight i h, rfl⟩

/-! ## Operand 2 (R104, R108, R109) -/

theorem readDisp32_encode (d : BitVec 32) (rest : List Byte) : readDisp32 (disp32Bytes d ++ rest) = some (d, rest) := by
  have hbytes : d.extractLsb' 24 8 ++ d.extractLsb' 16 8 ++ d.extractLsb' 8 8 ++ d.extractLsb' 0 8 = d := by
    rw [BitVec.extractLsb'_append_extractLsb'_eq_extractLsb' (start₁ := 16) (len₁ := 8) rfl,
      BitVec.extractLsb'_append_extractLsb'_eq_extractLsb' (start₁ := 8) (len₁ := 8) rfl,
      BitVec.extractLsb'_append_extractLsb'_eq_extractLsb' (start₁ := 0) (len₁ := 8) rfl]
    exact BitVec.extractLsb'_eq_self
  simp only [disp32Bytes, List.cons_append, List.nil_append, readDisp32, hbytes]

theorem readDisp_encode (d : Disp) (rest : List Byte) : readDisp d.mod (d.encode ++ rest) = some (d, rest) := by
  cases d with
  | none => rfl
  | disp8 d => rfl
  | disp32 d => simp [readDisp, Disp.mod, Disp.encode, readDisp32_encode]

/-- `mod = 11b` is no memory operand. -/
theorem mod_ne_three (d : Disp) : d.mod ≠ 3 := by
  cases d <;> simp [Disp.mod]

/-- An admitted displacement with `mod = 00b` has another base field than 101b. -/
theorem not_noBase_of_wf (b : Gpr) (d : Disp) (h : d.wf b = true) : ¬ (d.mod = 0 ∧ gprLow b = 5) := by
  rintro ⟨hmod, hlow⟩
  cases d with
  | none => exact bne_iff_ne.mp h hlow
  | disp8 d => exact absurd hmod (by decide : ¬ (1 : BitVec 2) = 0)
  | disp32 d => exact absurd hmod (by decide : ¬ (2 : BitVec 2) = 0)

theorem decodeModRM_mem (hi x b : BitVec 1) (mod : BitVec 2) (reg rm : BitVec 3) (bs rest : List Byte) (m : MemForm)
    (hmod : mod ≠ 3) (h : decodeMem mod rm x b bs = some (m, rest)) :
    decodeModRM hi x b (packModRM mod reg rm :: bs) = some (reg, .mem m, rest) := by
  obtain ⟨hm, hreg, hrm⟩ := packModRM_fields mod reg rm
  simp only [decodeModRM, hm, hreg, hrm, if_neg hmod, h]

/-- Base field 100b announces the SIB byte. -/
theorem decodeMem_sib (mod : BitVec 2) (x b : BitVec 1) (sib : Byte) (bs : List Byte) :
    decodeMem mod 4 x b (sib :: bs) = decodeSib mod x b sib bs := rfl

theorem decodeSib_sib (x : BitVec 1) (sc : BitVec 2) (i b : Gpr) (d : Disp) (rest : List Byte) (hd : d.wf b = true)
    (hx : x = gprHigh i) :
    decodeSib d.mod x (gprHigh b) (packModRM sc (gprLow i) (gprLow b)) (d.encode ++ rest) =
      some (.sib sc i b d, rest) := by
  obtain ⟨hsc, hi, hb⟩ := packModRM_fields sc (gprLow i) (gprLow b)
  simp only [decodeSib, hsc, hi, hb, if_neg (not_noBase_of_wf b d hd), readDisp_encode, hx, gprHigh_append_gprLow]

theorem decodeSib_sibNoBase (x b : BitVec 1) (sc : BitVec 2) (i : Gpr) (d : BitVec 32) (rest : List Byte)
    (hx : x = gprHigh i) :
    decodeSib 0 x b (packModRM sc (gprLow i) 5) (disp32Bytes d ++ rest) = some (.sibNoBase sc i d, rest) := by
  obtain ⟨hsc, hi, hb⟩ := packModRM_fields sc (gprLow i) 5
  simp only [decodeSib, hsc, hi, hb, and_self, if_true, readDisp32_encode, hx, gprHigh_append_gprLow]

/-- Operand 2 comes back out of its bytes, given its extension bits. -/
theorem decodeModRM_encode (hi : BitVec 1) (reg : BitVec 3) (src : Rm) (rest : List Byte) (hwf : src.wf = true)
    (hhi : ∀ n, src = .reg n → hi = dstR' n) :
    decodeModRM hi src.bitX src.bitB (src.encode reg ++ rest) = some (reg, src, rest) := by
  cases src with
  | reg n =>
    obtain ⟨hm, hreg, hrm⟩ := packModRM_fields 3 reg (dstLow n)
    have hn : hi ++ dstR n ++ dstLow n = n := by rw [hhi n rfl, dst_append]
    show decodeModRM hi (dstR' n) (dstR n) (packModRM 3 reg (dstLow n) :: rest) = some (reg, .reg n, rest)
    simp only [decodeModRM, hm, hreg, hrm, if_true, hn]
  | mem m =>
    cases m with
    | ripRel d =>
      refine decodeModRM_mem hi _ _ 0 reg 5 (disp32Bytes d ++ rest) rest _ (by decide) ?_
      simp [decodeMem, readDisp32_encode]
    | base b d =>
      obtain ⟨hlow, hd⟩ := Bool.and_eq_true_iff.mp hwf
      have hsib : gprLow b ≠ 4 := bne_iff_ne.mp hlow
      refine decodeModRM_mem hi _ _ d.mod reg (gprLow b) (d.encode ++ rest) rest _ (mod_ne_three d) ?_
      simp only [decodeMem, if_neg hsib, if_neg (not_noBase_of_wf b d hd), readDisp_encode, Rm.bitB,
        gprHigh_append_gprLow]
    | sib sc i b d =>
      exact decodeModRM_mem hi _ _ d.mod reg 4 (packModRM sc (gprLow i) (gprLow b) :: (d.encode ++ rest)) rest _
        (mod_ne_three d) (decodeSib_sib _ sc i b d rest hwf rfl)
    | sibNoBase sc i d =>
      exact decodeModRM_mem hi _ _ 0 reg 4 (packModRM sc (gprLow i) 5 :: (disp32Bytes d ++ rest)) rest _
        (by decide) (decodeSib_sibNoBase _ _ sc i d rest rfl)

/-- Without extension bits, an operand that needs none comes back. -/
theorem decodeModRM_encode_threeBit (reg : BitVec 3) (src : Rm) (rest : List Byte) (hwf : src.wf = true)
    (h : src.threeBit = true) : decodeModRM 0 0 0 (src.encode reg ++ rest) = some (reg, src, rest) := by
  obtain ⟨hx, hb⟩ := bits_of_threeBit src h
  have := decodeModRM_encode 0 reg src rest hwf (fifth_bit_of_fourBit src (fourBit_of_threeBit src h))
  rwa [hx, hb] at this

/-! ## The formats -/

theorem decodeLegacy_encode (p : Prefixes) (dst : VReg) (src : Rm) (rest : List Byte) (hwf : src.wf = true)
    (hdst : dst.ult 8 = true) (hsrc : src.threeBit = true) :
    decodeLegacy p none (0x5A :: (src.encode (dstLow dst) ++ rest)) = .instr (.cvtps2pd p false dst src) rest := by
  have hn := dst_append_of_ult_sixteen dst (ult_sixteen_of_ult_eight dst hdst)
  rw [dstR_of_ult_eight dst hdst] at hn
  simp only [decodeLegacy, if_true, decodeModRM_encode_threeBit _ _ _ hwf hsrc, hn, Option.isSome_none]

theorem decodeLegacy_encode_rex (p : Prefixes) (dst : VReg) (src : Rm) (rest : List Byte) (hwf : src.wf = true)
    (hdst : dst.ult 16 = true) (hsrc : src.fourBit = true) :
    decodeLegacy p (some (rexByte (dstR dst) src.bitX src.bitB)) (0x5A :: (src.encode (dstLow dst) ++ rest)) =
      .instr (.cvtps2pd p true dst src) rest := by
  obtain ⟨-, hr, hx, hb⟩ := rexByte_fields (dstR dst) src.bitX src.bitB
  simp only [decodeLegacy, if_true, hr, hx, hb, decodeModRM_encode 0 _ _ _ hwf (fifth_bit_of_fourBit src hsrc),
    dst_append_of_ult_sixteen dst hdst, Option.isSome_some]

theorem decodeVex2_encode (p : Prefixes) (l : BitVec 1) (vvvv : BitVec 4) (dst : VReg) (src : Rm) (rest : List Byte)
    (hwf : src.wf = true) (hdst : dst.ult 16 = true) (hsrc : src.threeBit = true) :
    decodeVex2 p (vex2Byte (dstR dst) vvvv l :: 0x5A :: (src.encode (dstLow dst) ++ rest)) =
      .instr (if l = 0 then .vcvtps2pd128Vex2 p vvvv dst src else .vcvtps2pd256Vex2 p vvvv dst src) rest := by
  obtain ⟨hpp, hr, hv, hl⟩ := vex2Byte_fields (dstR dst) vvvv l
  simp only [decodeVex2, ne_eq, not_true_eq_false, if_false, hpp, hr, hv, hl,
    decodeModRM_encode_threeBit _ _ _ hwf hsrc, dst_append_of_ult_sixteen dst hdst]
  split <;> rfl

theorem decodeVex3_encode (p : Prefixes) (l : BitVec 1) (vvvv : BitVec 4) (dst : VReg) (src : Rm) (rest : List Byte)
    (hwf : src.wf = true) (hdst : dst.ult 16 = true) (hsrc : src.fourBit = true) :
    decodeVex3 p (vex3Byte0 (dstR dst) src.bitX src.bitB :: vex3Byte1 vvvv l :: 0x5A ::
      (src.encode (dstLow dst) ++ rest)) =
      .instr (if l = 0 then .vcvtps2pd128Vex3 p vvvv dst src else .vcvtps2pd256Vex3 p vvvv dst src) rest := by
  obtain ⟨hmap, hr, hx, hb⟩ := vex3Byte0_fields (dstR dst) src.bitX src.bitB
  obtain ⟨hpp, hl, hv⟩ : field2 (vex3Byte1 vvvv l) 0 = 0 ∧ bitField (vex3Byte1 vvvv l) 2 = l ∧
    vvvvField (vex3Byte1 vvvv l) = vvvv := vex3_fields 0#1 vvvv l
  have hsource := decodeModRM_encode 0 (dstLow dst) src rest hwf (fifth_bit_of_fourBit src hsrc)
  simp only [decodeVex3, ne_eq, not_true_eq_false, if_false, hmap, hpp, hl, hv, hr, hx, hb, hsource,
    dst_append_of_ult_sixteen dst hdst]
  split <;> rfl

/-- EVEX bytes whose fixed fields are right come down to the fields of their third byte. -/
theorem decodeEvex_encode (pol : SaeLLPolicy) (p : Prefixes) (vvvv : BitVec 4) (p2 : Byte) (dst : VReg) (src : Rm)
    (rest : List Byte) (hwf : src.wf = true) :
    decodeEvex pol p (evexByte0 (dstR dst) src.bitX src.bitB (dstR' dst) :: evexByte1 vvvv :: p2 :: 0x5A ::
      (src.encode (dstLow dst) ++ rest)) = evexFields pol p (evexByte1 vvvv) p2 dst src rest := by
  obtain ⟨hmap, hr, hx, hb, hr'⟩ := evexByte0_fields (dstR dst) src.bitX src.bitB (dstR' dst)
  obtain ⟨hw, hfixed, hpp, -⟩ := evexByte1_fields vvvv
  have hsource := decodeModRM_encode src.bitX (dstLow dst) src rest hwf (by rintro n rfl; rfl)
  simp only [decodeEvex, ne_eq, not_true_eq_false, if_false, hmap, hw, hfixed, hpp, hr, hx, hb, hr', hsource,
    dst_append]

/-! ## The fields of EVEX (R120 to R125) -/

/-- A stored `vvvv` other than 1111b: the row that `L'L` selects, or else `#UD` in decoding; no other field is looked
at. -/
theorem evexFields_of_wrong_vvvv (pol : SaeLLPolicy) (p : Prefixes) (vvvv : BitVec 4) (p2 : Byte) (z b : Bool)
    (ll : BitVec 2) (v' : BitVec 1) (aaa : KReg) (dst : VReg) (src : Rm) (rest : List Byte)
    (hp2 : EvexP2 p2 z ll b v' aaa) (hv : vvvv ≠ 15) :
    evexFields pol p (evexByte1 vvvv) p2 dst src rest =
      (evexRow p vvvv aaa z b dst src ll).elim (.invalidOpcode (p.count + 5 + src.length)) (.instr · rest) := by
  obtain ⟨hz, hll, hb, -, haaa⟩ := hp2
  obtain ⟨-, -, -, hvvvv⟩ := evexByte1_fields vvvv
  simp only [evexFields, hvvvv, hz, hll, hb, haaa, ne_eq, hv, not_false_eq_true, if_true]
  cases evexRow p vvvv aaa z b dst src ll <;> rfl

/-- Stored `vvvv = 1111b` and no reserved combination: the row that `L'L` selects, if there is one. -/
theorem evexFields_of_not_reserved (pol : SaeLLPolicy) (p : Prefixes) (p2 : Byte) (z b : Bool) (ll : BitVec 2)
    (aaa : KReg) (dst : VReg) (src : Rm) (rest : List Byte) (hp2 : EvexP2 p2 z ll b 1 aaa)
    (hmask : ¬ (z = true ∧ aaa = 0)) (hsae : ¬ (b = true ∧ src.isReg = true ∧ ll ≠ 2)) :
    evexFields pol p (evexByte1 15) p2 dst src rest =
      (evexRow p 15 aaa z b dst src ll).elim (.refuse .vectorLength) (.instr · rest) := by
  obtain ⟨hz, hll, hb, hv', haaa⟩ := hp2
  obtain ⟨-, -, -, hvvvv⟩ := evexByte1_fields 15
  have hv'0 : ¬ (1 : BitVec 1) = 0 := by decide
  simp only [evexFields, hvvvv, hz, hll, hb, hv', haaa, ne_eq, not_true_eq_false, if_false, if_neg hv'0, if_neg hmask,
    if_neg hsae]
  cases evexRow p 15 aaa z b dst src ll <;> rfl

/-- Admitted mask fields, and `b = 1` with a register source at `L'L = 10b` alone: the row that `L'L` selects. -/
theorem evexFields_of_row (pol : SaeLLPolicy) (p : Prefixes) (vvvv : BitVec 4) (aaa : KReg) (z b : Bool)
    (ll : BitVec 2) (dst : VReg) (src : Rm) (rest : List Byte) (i : Instr)
    (hrow : evexRow p vvvv aaa z b dst src ll = some i) (hmask : evexMaskWf vvvv aaa z = true)
    (hsae : ll ≠ 2 → evexSaeWf vvvv b src = true) :
    evexFields pol p (evexByte1 vvvv) (evexByte2 z ll b aaa) dst src rest = .instr i rest := by
  have hp2 := evexP2_evexByte2 z ll b aaa
  by_cases hv : vvvv = 15
  · subst hv
    rw [evexFields_of_not_reserved pol p _ z b ll aaa dst src rest hp2 ((evexMaskWf_iff 15 aaa z).mp hmask rfl)
      fun ⟨hb, hreg, hll⟩ => (evexSaeWf_iff 15 b src).mp (hsae hll) rfl ⟨hb, hreg⟩, hrow]
    rfl
  · rw [evexFields_of_wrong_vvvv pol p vvvv _ z b ll 1 aaa dst src rest hp2 hv, hrow]
    rfl

/-! ## Every instruction out of its bytes -/

theorem drop_prefixes (p : Prefixes) (bs : List Byte) : (p.encode ++ bs).drop p.count = bs :=
  List.drop_left' (spelledBy_length p p.encode (spelledBy_encode p))

theorem decodeFrom_encodeVex2 (pol : SaeLLPolicy) (p : Prefixes) (l : BitVec 1) (vvvv : BitVec 4) (dst : VReg)
    (src : Rm) (rest : List Byte) (hwf : src.wf = true) (hdst : dst.ult 16 = true) (hsrc : src.threeBit = true) :
    decodeFrom pol p ((encodeVex2 p l vvvv dst src).drop p.count ++ rest) =
      .instr (if l = 0 then .vcvtps2pd128Vex2 p vvvv dst src else .vcvtps2pd256Vex2 p vvvv dst src) rest := by
  rw [encodeVex2, drop_prefixes]
  exact (decodeFrom_vex2 pol p _).trans (decodeVex2_encode p l vvvv dst src rest hwf hdst hsrc)

theorem decodeFrom_encodeVex3 (pol : SaeLLPolicy) (p : Prefixes) (l : BitVec 1) (vvvv : BitVec 4) (dst : VReg)
    (src : Rm) (rest : List Byte) (hwf : src.wf = true) (hdst : dst.ult 16 = true) (hsrc : src.fourBit = true) :
    decodeFrom pol p ((encodeVex3 p l vvvv dst src).drop p.count ++ rest) =
      .instr (if l = 0 then .vcvtps2pd128Vex3 p vvvv dst src else .vcvtps2pd256Vex3 p vvvv dst src) rest := by
  rw [encodeVex3, drop_prefixes]
  exact (decodeFrom_vex3 pol p _).trans (decodeVex3_encode p l vvvv dst src rest hwf hdst hsrc)

theorem decodeFrom_encodeEvex (pol : SaeLLPolicy) (p : Prefixes) (ll : BitVec 2) (vvvv : BitVec 4) (aaa : KReg)
    (z b : Bool) (dst : VReg) (src : Rm) (rest : List Byte) (i : Instr) (hwf : src.wf = true)
    (hrow : evexRow p vvvv aaa z b dst src ll = some i) (hmask : evexMaskWf vvvv aaa z = true)
    (hsae : ll ≠ 2 → evexSaeWf vvvv b src = true) :
    decodeFrom pol p ((encodeEvex p ll vvvv aaa z b dst src).drop p.count ++ rest) = .instr i rest := by
  rw [encodeEvex, drop_prefixes]
  calc decodeFrom pol p _
    _ = decodeEvex pol p _ := decodeFrom_evex pol p _
    _ = evexFields pol p (evexByte1 vvvv) (evexByte2 z ll b aaa) dst src rest :=
      decodeEvex_encode pol p vvvv _ dst src rest hwf
    _ = .instr i rest := evexFields_of_row pol p vvvv aaa z b ll dst src rest i hrow hmask hsae

/-- LEGACY without and with a REX byte. -/
theorem decodeFrom_encode_legacy (pol : SaeLLPolicy) (p : Prefixes) (rex : Bool) (dst : VReg) (src : Rm)
    (rest : List Byte) (hwf : (Instr.cvtps2pd p rex dst src).wf = true) :
    decodeFrom pol p ((encode (.cvtps2pd p rex dst src)).drop p.count ++ rest) = .instr (.cvtps2pd p rex dst src) rest := by
  simp only [Instr.wf, Bool.and_eq_true, Bool.or_eq_true] at hwf
  obtain ⟨⟨⟨hsrc, hfour⟩, hdst⟩, hrex⟩ := hwf
  rw [encode, List.append_assoc, drop_prefixes]
  cases rex with
  | false =>
    obtain ⟨hdst8, hthree⟩ := hrex.resolve_left Bool.false_ne_true
    exact (decodeFrom_legacy pol p _).trans (decodeLegacy_encode p dst src rest hsrc hdst8 hthree)
  | true =>
    obtain ⟨hhigh, -⟩ := rexByte_fields (dstR dst) src.bitX src.bitB
    exact (decodeFrom_rex pol p _ 0x0F _ hhigh).trans (decodeLegacy_encode_rex p dst src rest hsrc hdst hfour)

/-- Past its prefixes, every well-formed instruction comes back out of its bytes. -/
theorem decodeFrom_encode (pol : SaeLLPolicy) (i : Instr) (rest : List Byte) (hwf : i.wf = true) :
    decodeFrom pol i.prefixes ((encode i).drop i.prefixes.count ++ rest) = .instr i rest := by
  cases i with
  | cvtps2pd p rex dst src => exact decodeFrom_encode_legacy pol p rex dst src rest hwf
  | vcvtps2pd128Vex2 p v dst src =>
    simp only [Instr.wf, Bool.and_eq_true] at hwf
    obtain ⟨⟨hsrc, hdst⟩, hthree⟩ := hwf
    exact decodeFrom_encodeVex2 pol p 0 v dst src rest hsrc hdst hthree
  | vcvtps2pd256Vex2 p v dst src =>
    simp only [Instr.wf, Bool.and_eq_true] at hwf
    obtain ⟨⟨hsrc, hdst⟩, hthree⟩ := hwf
    exact decodeFrom_encodeVex2 pol p 1 v dst src rest hsrc hdst hthree
  | vcvtps2pd128Vex3 p v dst src =>
    simp only [Instr.wf, Bool.and_eq_true] at hwf
    obtain ⟨⟨hsrc, hdst⟩, hfour⟩ := hwf
    exact decodeFrom_encodeVex3 pol p 0 v dst src rest hsrc hdst hfour
  | vcvtps2pd256Vex3 p v dst src =>
    simp only [Instr.wf, Bool.and_eq_true] at hwf
    obtain ⟨⟨hsrc, hdst⟩, hfour⟩ := hwf
    exact decodeFrom_encodeVex3 pol p 1 v dst src rest hsrc hdst hfour
  | vcvtps2pd128Evex p v a z b dst src =>
    simp only [Instr.wf, Bool.and_eq_true] at hwf
    obtain ⟨⟨hsrc, hmask⟩, hsae⟩ := hwf
    exact decodeFrom_encodeEvex pol p 0 v a z b dst src rest _ hsrc rfl hmask fun _ => hsae
  | vcvtps2pd256Evex p v a z b dst src =>
    simp only [Instr.wf, Bool.and_eq_true] at hwf
    obtain ⟨⟨hsrc, hmask⟩, hsae⟩ := hwf
    exact decodeFrom_encodeEvex pol p 1 v a z b dst src rest _ hsrc rfl hmask fun _ => hsae
  | vcvtps2pd512Evex p v a z b dst src =>
    simp only [Instr.wf, Bool.and_eq_true] at hwf
    obtain ⟨hsrc, hmask⟩ := hwf
    exact decodeFrom_encodeEvex pol p 2 v a z b dst src rest _ hsrc rfl hmask fun h => absurd rfl h

/-- Every encoding begins with the prefixes. -/
theorem prefixes_append_drop (i : Instr) : i.prefixes.encode ++ (encode i).drop i.prefixes.count = encode i := by
  have hsplit : ∀ (p : Prefixes) (bs : List Byte), p.encode ++ (p.encode ++ bs).drop p.count = p.encode ++ bs :=
    fun p bs => congrArg (p.encode ++ ·) (drop_prefixes p bs)
  cases i with
  | cvtps2pd p rex dst src =>
    rw [encode, List.append_assoc]
    exact hsplit p _
  | _ => exact hsplit _ _

/-- Settles O45: any spelling of the prefixes is collected, and past them the instruction comes back out of its bytes. -/
theorem decodeEncodeRoundTrip : Obligations.DecodeEncodeRoundTrip := by
  intro pol i rest hwf
  have spelled : ∀ pre, i.prefixes.spelledBy pre →
      decode pol (pre ++ ((encode i).drop i.prefixes.count ++ rest)) = .instr i rest :=
    fun pre hpre => (decode_spelledBy pol i.prefixes pre _ hpre).trans (decodeFrom_encode pol i rest hwf)
  refine ⟨?_, spelled⟩
  have canonicalSpelling := spelled i.prefixes.encode (spelledBy_encode i.prefixes)
  rwa [← List.append_assoc, prefixes_append_drop] at canonicalSpelling

end Sys2Proof
end

section
/-!
PROOFS for spec/30_encoding.md R120 to R125: the reserved combinations of EVEX, and the stored `vvvv` that comes before
them.
-/
namespace Sys2Proof.Machine

/-! ## Reserved combinations -/

/-- Bytes of an EVEX form after any spelling of the prefixes come down to the fields of their third byte. -/
theorem decode_evex_spelledBy (pol : SaeLLPolicy) (p : Prefixes) (pre : List Byte) (vvvv : BitVec 4) (p2 : Byte)
    (dst : VReg) (src : Rm) (rest : List Byte) (hpre : p.spelledBy pre) (hwf : src.wf = true) :
    decode pol (pre ++ 0x62 :: evexByte0 (dstR dst) src.bitX src.bitB (dstR' dst) :: evexByte1 vvvv :: p2 :: 0x5A ::
      (src.encode (dstLow dst) ++ rest)) = evexFields pol p (evexByte1 vvvv) p2 dst src rest := by
  rw [decode_spelledBy pol p pre _ hpre, decodeFrom_evex, decodeEvex_encode pol p vvvv p2 dst src rest hwf]

/-- R122 to R125 under the default policy. -/
theorem evexFields_refuses (p : Prefixes) (p2 : Byte) (z b : Bool) (ll : BitVec 2) (v' : BitVec 1) (aaa : KReg)
    (dst : VReg) (src : Rm) (rest : List Byte) (hp2 : EvexP2 p2 z ll b v' aaa)
    (h : v' = 0 ∨ (z = true ∧ aaa = 0) ∨ (b = true ∧ src.isReg = true ∧ ll ≠ 2) ∨ ll = 3) :
    ∃ r, evexFields .refuse p (evexByte1 15) p2 dst src rest = .refuse r := by
  have ⟨hz, hll, hb, hv', haaa⟩ := hp2
  obtain ⟨-, -, -, hvvvv⟩ := evexByte1_fields 15
  by_cases hvprime : v' = 0
  · exact ⟨.evexVPrime, by simp only [evexFields, hvvvv, hv', hvprime, ne_eq, not_true_eq_false, if_false, if_true]⟩
  by_cases hmask : z = true ∧ aaa = 0
  · exact ⟨.zeroingWithoutMask, by
      simp only [evexFields, hvvvv, hz, hv', haaa, ne_eq, not_true_eq_false, if_false, if_neg hvprime, if_pos hmask]⟩
  by_cases hsae : b = true ∧ src.isReg = true ∧ ll ≠ 2
  · exact ⟨.saeVectorLength, by
      simp only [evexFields, hvvvv, hz, hll, hb, hv', haaa, ne_eq, not_true_eq_false, if_false, if_neg hvprime,
        if_neg hmask, if_pos hsae]⟩
  have hll3 : ll = 3 := ((h.resolve_left hvprime).resolve_left hmask).resolve_left hsae
  have hv'1 : v' = 1 := (BitVec.eq_zero_or_eq_one v').resolve_left hvprime
  subst hv'1 hll3
  exact ⟨.vectorLength, evexFields_of_not_reserved .refuse p p2 z b 3 aaa dst src rest hp2 hmask hsae⟩

theorem bitField_two_ne_one (x : Byte) (h : x.getLsbD 2 = false) : bitField x 2 ≠ 1 := by
  revert x
  decide

/-- Settles O52: the third byte holds the combination, or the bytes before it the wrong fixed field. -/
theorem reservedEvexFieldsRefused : Obligations.ReservedEvexFieldsRefused := by
  intro p pre hpre
  refine ⟨fun z b v' ll aaa dst src rest hwf h => ?_, fun pol p0 p1 p2 op bs h => ?_⟩
  · rw [decode_evex_spelledBy .refuse p pre 15 _ dst src rest hpre hwf]
    exact evexFields_refuses p _ z b ll v' aaa dst src rest (evexP2_packed z ll b v' aaa) h
  · rw [decode_spelledBy pol p pre _ hpre, decodeFrom_evex]
    refine decodeEvex_refuses pol p p0 p1 p2 op bs ?_
    rcases h with hmap | hfixed | hpp
    · exact .inl hmap
    · exact .inr (.inr (.inl (bitField_two_ne_one p1 hfixed)))
    · exact .inr (.inr (.inr hpp))

/-! ## `sae` at any length (R125) -/

/-- Under `vl512` a register source with `b = 1` is the EVEX.512 row: by `L'L = 10b`, or by the policy. -/
theorem evexFields_sae_vl512 (p : Prefixes) (p2 : Byte) (z : Bool) (ll : BitVec 2) (aaa : KReg) (dst n : VReg)
    (rest : List Byte) (hp2 : EvexP2 p2 z ll true 1 aaa) (hmask : ¬ (z = true ∧ aaa = 0)) :
    evexFields .vl512 p (evexByte1 15) p2 dst (.reg n) rest =
      .instr (.vcvtps2pd512Evex p 15 aaa z true dst (.reg n)) rest := by
  by_cases hll2 : ll = 2
  · subst hll2
    exact evexFields_of_not_reserved .vl512 p p2 z true 2 aaa dst (.reg n) rest hp2 hmask fun ⟨_, _, hne⟩ => hne rfl
  · obtain ⟨hz, hll, hb, hv', haaa⟩ := hp2
    obtain ⟨-, -, -, hvvvv⟩ := evexByte1_fields 15
    have hv'0 : ¬ (1 : BitVec 1) = 0 := by decide
    simp only [evexFields, hvvvv, hz, hll, hb, hv', haaa, ne_eq, not_true_eq_false, if_false, if_neg hv'0,
      if_neg hmask, Rm.isReg, hll2, not_false_eq_true, and_self, if_true]

/-- Settles O53: the bytes are those of an EVEX form, its third byte with `b = 1`. -/
theorem saeAtAnyLengthUnderVl512 : Obligations.SaeAtAnyLengthUnderVl512 :=
  fun p pre z ll aaa dst n rest hpre hmask =>
    (decode_evex_spelledBy .vl512 p pre 15 _ dst (.reg n) rest hpre rfl).trans
      (evexFields_sae_vl512 p _ z ll aaa dst n rest (evexP2_evexByte2 z ll true aaa) hmask)

/-! ## A wrong stored `vvvv` (R120, R135 step 5, R201) -/

/-- A wrong stored `vvvv` is `#UD` before anything else, with no state changed. -/
theorem exec_of_wrong_vvvv (i : Instr) (s : State) (hv : (operationOf i).vvvv ≠ 15) :
    exec i s = .fault (.raised .invalidOpcode s) := by
  rw [exec_eq, convertPacked, if_pos hv, raise]

/-- A row of EVEX has the length and the `vvvv` that its bytes spell. -/
theorem evexRow_fields (p : Prefixes) (vvvv : BitVec 4) (aaa : KReg) (z b : Bool) (dst : VReg) (src : Rm)
    (ll : BitVec 2) (i : Instr) (h : evexRow p vvvv aaa z b dst src ll = some i) :
    i.length = p.count + 5 + src.length ∧ (operationOf i).vvvv = vvvv := by
  unfold evexRow at h
  split at h
  · cases h
    exact ⟨rfl, rfl⟩
  · split at h
    · cases h
      exact ⟨rfl, rfl⟩
    · split at h
      · cases h
        exact ⟨rfl, rfl⟩
      · cases h

/-- Bytes of an EVEX form with a wrong stored `vvvv`: `#UD` in decoding, or a row that raises it when it executes. -/
theorem decode_evex_of_wrong_vvvv (pol : SaeLLPolicy) (p : Prefixes) (pre : List Byte) (vvvv : BitVec 4) (p2 : Byte)
    (dst : VReg) (src : Rm) (rest bs : List Byte) (s : State) (hpre : p.spelledBy pre) (hwf : src.wf = true)
    (hv : vvvv ≠ 15)
    (hbs : bs = pre ++ 0x62 :: evexByte0 (dstR dst) src.bitX src.bitB (dstR' dst) :: evexByte1 vvvv :: p2 :: 0x5A ::
      (src.encode (dstLow dst) ++ rest)) :
    decode pol bs = .invalidOpcode (p.count + 5 + src.length) ∨
      (∃ i, decode pol bs = .instr i rest ∧ i.length = p.count + 5 + src.length ∧
        exec i s = .fault (.raised .invalidOpcode s)) := by
  have hp2 : EvexP2 p2 _ _ _ _ _ := ⟨rfl, rfl, rfl, rfl, rfl⟩
  rw [hbs, decode_evex_spelledBy pol p pre vvvv p2 dst src rest hpre hwf,
    evexFields_of_wrong_vvvv pol p vvvv p2 _ _ _ _ _ dst src rest hp2 hv]
  cases hrow : evexRow p vvvv (field3 p2 0) (isSet (bitField p2 7)) (isSet (bitField p2 4)) dst src
      (p2.extractLsb' 5 2) with
  | none => exact .inl rfl
  | some i =>
    obtain ⟨hlen, hvvvv⟩ := evexRow_fields _ _ _ _ _ _ _ _ _ hrow
    exact .inr ⟨i, rfl, hlen, exec_of_wrong_vvvv i s (by rwa [hvvvv])⟩

/-- R36: `#UD` in decoding, the bytes in one canonical half. -/
theorem decodeAt_invalidOpcode (s : State) (len : Nat) (hdec : decode s.proc.saeLL s.fetchBytes = .invalidOpcode len)
    (hhalf : inOneHalf s.proc.linear s.rip len = true) : s.decodeAt = .invalidOpcode := by
  simp [State.decodeAt, hdec, hhalf]

/-- Settles O54: the row that `L'L` selects, or none, and the step then raises what the bytes raise. -/
theorem wrongVvvvComesFirst : Obligations.WrongVvvvComesFirst := by
  intro p pre vvvv p2 dst src rest bs hpre hwf hv hbs
  have bytes := fun pol s => decode_evex_of_wrong_vvvv pol p pre vvvv p2 dst src rest bs s hpre hwf hv hbs
  refine ⟨bytes, fun s hmode htf hbp hfetch hhalf => ?_⟩
  have hat : s.fetchDecode = s.decodeAt := fetchDecode_eq_decodeAt s hmode htf hbp
  rcases bytes s.proc.saeLL s with hud | ⟨i, hinstr, hlen, hexec⟩
  · rw [← hfetch] at hud
    rw [step, hat, decodeAt_invalidOpcode s _ hud hhalf, raise]
  · rw [← hfetch] at hinstr
    rw [← hlen] at hhalf
    rw [step_of_fetchDecode_run s i (hat.trans (decodeAt_instr s i rest hinstr hhalf)), hexec]

end Sys2Proof.Machine
end

section
/-!
PROOFS for spec/30_encoding.md R115: the length of an instruction is the number of bytes it is encoded in, and the number
of bytes the decoder consumes.
-/
namespace Sys2Proof.Machine

/-! ## The bytes of an encoding -/

@[simp] theorem length_encode_disp (d : Disp) : d.encode.length = d.length := by
  cases d <;> rfl

@[simp] theorem length_encode_rm (reg : BitVec 3) (src : Rm) : (src.encode reg).length = src.length := by
  cases src with
  | reg n => rfl
  | mem m => cases m <;> simp [Rm.encode, MemForm.encode, Rm.length, MemForm.length, disp32Bytes] <;> omega

@[simp] theorem length_encode_prefixes (p : Prefixes) : p.encode.length = p.count :=
  spelledBy_length p p.encode (spelledBy_encode p)

theorem length_encode (i : Instr) : (encode i).length = i.length := by
  cases i with
  | cvtps2pd p rex dst src =>
    have hrex : (if rex then [rexByte (dstR dst) src.bitX src.bitB] else []).length = if rex then 1 else 0 := by
      cases rex <;> rfl
    simp only [encode, Instr.length, List.length_append, List.length_cons, length_encode_prefixes, length_encode_rm,
      hrex]
    omega
  | _ =>
    simp only [encode, encodeVex2, encodeVex3, encodeEvex, Instr.length, List.length_append, List.length_cons,
      length_encode_prefixes, length_encode_rm]
    omega

/-! ## Bounds -/

theorem count_le_two (p : Prefixes) : p.count ≤ 2 := by
  unfold Prefixes.count
  split <;> split <;> omega

theorem length_disp_le_four (d : Disp) : d.length ≤ 4 := by
  cases d <;> simp [Disp.length]

theorem length_mem_le_five (m : MemForm) : m.length ≤ 5 := by
  cases m with
  | ripRel d => exact (by decide : 4 ≤ 5)
  | base b d => exact (length_disp_le_four d).trans (by decide)
  | sib sc i b d =>
    have := length_disp_le_four d
    simp only [MemForm.length]
    omega
  | sibNoBase sc i d => exact le_refl 5

theorem length_rm_bounds (src : Rm) : 1 ≤ src.length ∧ src.length ≤ 6 := by
  cases src with
  | reg n => exact ⟨le_refl 1, (by decide : 1 ≤ 6)⟩
  | mem m =>
    have := length_mem_le_five m
    simp only [Rm.length]
    omega

/-- R115: at most 13 bytes; and at least 3, 4 outside LEGACY, 5 with the three-byte spelling of VEX, 6 with EVEX. -/
theorem length_bounds (i : Instr) :
    i.length ≤ 13 ∧ 3 ≤ i.length ∧ ((operationOf i).form ≠ .legacy → 4 ≤ i.length) ∧
      (i.rowIndex = 3 ∨ i.rowIndex = 4 → 5 ≤ i.length) ∧ ((operationOf i).form.isEvex = true → 6 ≤ i.length) := by
  cases i with
  | cvtps2pd p rex dst src =>
    have hp := count_le_two p
    have hs := length_rm_bounds src
    have hrex : (if rex then 1 else 0) ≤ 1 := by cases rex <;> decide
    simp only [Instr.length, operationOf, opLegacy, Instr.rowIndex, Form.isEvex]
    refine ⟨by omega, by omega, fun h => absurd rfl h, by omega, nofun⟩
  | vcvtps2pd128Vex2 p v dst src | vcvtps2pd256Vex2 p v dst src =>
    have hp := count_le_two p
    have hs := length_rm_bounds src
    simp only [Instr.length, operationOf, opVex, Instr.rowIndex, Form.isEvex]
    refine ⟨by omega, by omega, fun _ => by omega, by omega, nofun⟩
  | vcvtps2pd128Vex3 p v dst src | vcvtps2pd256Vex3 p v dst src =>
    have hp := count_le_two p
    have hs := length_rm_bounds src
    simp only [Instr.length, operationOf, opVex, Form.isEvex]
    refine ⟨by omega, by omega, fun _ => by omega, fun _ => by omega, nofun⟩
  | vcvtps2pd128Evex p v a z b dst src | vcvtps2pd256Evex p v a z b dst src | vcvtps2pd512Evex p v a z b dst src =>
    have hp := count_le_two p
    have hs := length_rm_bounds src
    simp only [Instr.length]
    refine ⟨by omega, by omega, fun _ => by omega, fun _ => by omega, fun _ => by omega⟩

/-! ## The bytes the decoder consumes -/

/-- Of `len` bytes in all, `k` stand before `bs`; the others are those of `bs` up to `rest`. -/
def Consumes (k len : Nat) (bs rest : List Byte) : Prop := ∃ used, bs = used ++ rest ∧ k + used.length = len

theorem consumes_refl (k : Nat) (bs : List Byte) : Consumes k k bs bs := ⟨[], rfl, rfl⟩

theorem Consumes.cons {k len : Nat} {bs rest : List Byte} (b : Byte) (h : Consumes (k + 1) len bs rest) :
    Consumes k len (b :: bs) rest := by
  obtain ⟨used, rfl, hlen⟩ := h
  exact ⟨b :: used, rfl, by rw [List.length_cons]; omega⟩

/-- More bytes before count for the whole. -/
theorem Consumes.shift {k len : Nat} {bs rest : List Byte} (n : Nat) (h : Consumes k len bs rest) :
    Consumes (n + k) (n + len) bs rest := by
  obtain ⟨used, hbs, hlen⟩ := h
  exact ⟨used, hbs, by omega⟩

theorem readDisp32_consumes (bs rest : List Byte) (d : BitVec 32) (h : readDisp32 bs = some (d, rest)) :
    Consumes 0 4 bs rest := by
  unfold readDisp32 at h
  split at h
  · cases h
    exact ((((consumes_refl 4 _).cons _).cons _).cons _).cons _
  · cases h

theorem readDisp_consumes (mod : BitVec 2) (bs rest : List Byte) (d : Disp) (h : readDisp mod bs = some (d, rest)) :
    Consumes 0 d.length bs rest := by
  unfold readDisp at h
  split at h
  · cases h
    exact consumes_refl 0 _
  · split at h
    · split at h
      · cases h
        exact (consumes_refl 1 _).cons _
      · cases h
    · split at h
      · rename_i hd
        cases h
        exact readDisp32_consumes _ _ _ hd
      · cases h

theorem decodeSib_consumes (mod : BitVec 2) (x b : BitVec 1) (sib : Byte) (bs rest : List Byte) (m : MemForm)
    (h : decodeSib mod x b sib bs = some (m, rest)) : Consumes 0 m.length (sib :: bs) rest := by
  unfold decodeSib at h
  split at h
  · split at h
    · rename_i hd
      cases h
      exact ((readDisp32_consumes _ _ _ hd).shift 1).cons sib
    · cases h
  · split at h
    · rename_i hd
      cases h
      exact ((readDisp_consumes _ _ _ _ hd).shift 1).cons sib
    · cases h

theorem decodeMem_consumes (mod : BitVec 2) (rm : BitVec 3) (x b : BitVec 1) (bs rest : List Byte) (m : MemForm)
    (h : decodeMem mod rm x b bs = some (m, rest)) : Consumes 0 m.length bs rest := by
  unfold decodeMem at h
  split at h
  · split at h
    · exact decodeSib_consumes _ _ _ _ _ _ _ h
    · cases h
  · split at h
    · split at h
      · rename_i hd
        cases h
        exact readDisp32_consumes _ _ _ hd
      · cases h
    · split at h
      · rename_i hd
        cases h
        exact readDisp_consumes _ _ _ _ hd
      · cases h

theorem decodeModRM_consumes (hi x b : BitVec 1) (bs rest : List Byte) (reg : BitVec 3) (src : Rm)
    (h : decodeModRM hi x b bs = some (reg, src, rest)) : Consumes 0 src.length bs rest := by
  cases bs with
  | nil => cases h
  | cons m bs =>
    rw [decodeModRM] at h
    split at h
    · cases h
      exact (consumes_refl 1 _).cons m
    · split at h
      · rename_i hm
        cases h
        exact ((decodeMem_consumes _ _ _ _ _ _ _ hm).shift 1).cons m
      · cases h

/-! ## The formats, after the bytes `0F`, `C5`, `C4`, `62` -/

/-- LEGACY: the prefixes, the REX byte and `0F` stand before. -/
theorem decodeLegacy_consumes (p : Prefixes) (rex : Option Byte) (bs rest : List Byte) (i : Instr)
    (h : decodeLegacy p rex bs = .instr i rest) :
    Consumes (p.count + (if rex.isSome then 1 else 0) + 1) i.length bs rest := by
  cases bs with
  | nil => cases h
  | cons op bs =>
    unfold decodeLegacy at h
    dsimp only at h
    split at h
    · split at h
      · rename_i hm
        cases h
        exact ((decodeModRM_consumes _ _ _ _ _ _ _ hm).shift _).cons op
      · cases h
    · cases h

theorem decodeVex2_consumes (p : Prefixes) (bs rest : List Byte) (i : Instr) (h : decodeVex2 p bs = .instr i rest) :
    Consumes (p.count + 1) i.length bs rest := by
  unfold decodeVex2 at h
  split at h
  · split at h
    · cases h
    · split at h
      · cases h
      · split at h
        · cases h
        · rename_i hm
          have operand := (decodeModRM_consumes _ _ _ _ _ _ _ hm).shift (p.count + 3)
          dsimp only at h
          split at h <;> cases h <;> exact (operand.cons _).cons _
  · cases h

theorem decodeVex3_consumes (p : Prefixes) (bs rest : List Byte) (i : Instr) (h : decodeVex3 p bs = .instr i rest) :
    Consumes (p.count + 1) i.length bs rest := by
  unfold decodeVex3 at h
  split at h
  · split at h
    · cases h
    · split at h
      · cases h
      · split at h
        · cases h
        · split at h
          · cases h
          · rename_i hm
            have operand := (decodeModRM_consumes _ _ _ _ _ _ _ hm).shift (p.count + 4)
            dsimp only at h
            split at h <;> cases h <;> exact ((operand.cons _).cons _).cons _
  · cases h

/-- The fields of EVEX consume nothing, and the row they give has the length of its bytes. -/
theorem evexFields_instr (pol : SaeLLPolicy) (p : Prefixes) (p1 p2 : Byte) (dst : VReg) (src : Rm)
    (bs rest : List Byte) (i : Instr) (h : evexFields pol p p1 p2 dst src bs = .instr i rest) :
    rest = bs ∧ i.length = p.count + 5 + src.length := by
  unfold evexFields at h
  dsimp only at h
  split at h
  · split at h
    · rename_i hrow
      cases h
      obtain ⟨hlen, -⟩ := evexRow_fields _ _ _ _ _ _ _ _ _ hrow
      exact ⟨rfl, hlen⟩
    · cases h
  · split at h
    · cases h
    · split at h
      · cases h
      · split at h
        · cases pol with
          | refuse => cases h
          | vl512 =>
            cases h
            exact ⟨rfl, rfl⟩
        · split at h
          · rename_i hrow
            cases h
            obtain ⟨hlen, -⟩ := evexRow_fields _ _ _ _ _ _ _ _ _ hrow
            exact ⟨rfl, hlen⟩
          · cases h

theorem decodeEvex_consumes (pol : SaeLLPolicy) (p : Prefixes) (bs rest : List Byte) (i : Instr)
    (h : decodeEvex pol p bs = .instr i rest) : Consumes (p.count + 1) i.length bs rest := by
  unfold decodeEvex at h
  split at h
  · iterate 5
      split at h
      · cases h
    dsimp only at h
    split at h
    · cases h
    · rename_i hm
      obtain ⟨rfl, hlen⟩ := evexFields_instr _ _ _ _ _ _ _ _ _ h
      have operand := (decodeModRM_consumes _ _ _ _ _ _ _ hm).shift (p.count + 5)
      rw [hlen]
      exact (((operand.cons _).cons _).cons _).cons _
  · cases h

theorem decodeOpcode_consumes (pol : SaeLLPolicy) (p : Prefixes) (b : Byte) (bs rest : List Byte) (i : Instr)
    (h : decodeOpcode pol p b bs = .instr i rest) : Consumes p.count i.length (b :: bs) rest := by
  refine Consumes.cons b ?_
  unfold decodeOpcode at h
  split at h
  · split at h
    · cases h
    · split at h
      · exact (decodeLegacy_consumes _ _ _ _ _ h).cons _
      · cases h
  · split at h
    · exact decodeLegacy_consumes _ _ _ _ _ h
    · split at h
      · exact decodeVex2_consumes _ _ _ _ h
      · split at h
        · exact decodeVex3_consumes _ _ _ _ h
        · split at h
          · exact decodeEvex_consumes _ _ _ _ _ h
          · cases h

/-- A segment override collected counts one byte. -/
theorem count_seg (p : Prefixes) (sg : Segment) (h : ¬ p.seg.isSome = true) :
    { p with seg := some sg }.count = p.count + 1 := by
  simp only [Prefixes.count, if_neg h, Option.isSome_some, if_true]
  omega

theorem count_addr32 (p : Prefixes) (h : ¬ p.addr32 = true) : { p with addr32 := true }.count = p.count + 1 := by
  simp [Prefixes.count, h]

theorem decodeFrom_consumes (pol : SaeLLPolicy) (p : Prefixes) (bs rest : List Byte) (i : Instr)
    (h : decodeFrom pol p bs = .instr i rest) : Consumes p.count i.length bs rest := by
  induction bs generalizing p with
  | nil => cases h
  | cons b bs ih =>
    rw [decodeFrom] at h
    split at h
    · split at h
      · cases h
      · rename_i hseg
        have after := ih _ h
        rw [count_seg p _ hseg] at after
        exact after.cons b
    · split at h
      · split at h
        · cases h
        · rename_i haddr
          have after := ih _ h
          rw [count_addr32 p haddr] at after
          exact after.cons b
      · split at h
        · cases h
        · exact decodeOpcode_consumes _ _ _ _ _ _ h

/-- Settles O46: part by part, the bytes of the encoding and the bytes consumed are counted. -/
theorem lengthIsNumberOfBytes : Obligations.LengthIsNumberOfBytes := by
  refine ⟨fun i => ⟨length_encode i, length_bounds i⟩, fun pol bs rest i h => ?_⟩
  obtain ⟨used, hbs, hlen⟩ := decodeFrom_consumes pol Prefixes.empty bs rest i h
  exact ⟨used, hbs, (Nat.zero_add _).symm.trans hlen⟩

end Sys2Proof.Machine
end

section
/-!
PROOFS for spec/30_encoding.md R119: the rows of the opcode table exclude one another, and an encoding matches its own.
-/
namespace Sys2Proof

/-! ## Rows that exclude one another -/

/-- Do two masked patterns agree on the bits that both match? -/
def patternsAgree : List Byte → List Byte → List Byte → List Byte → Bool
  | p :: ps, m :: ms, q :: qs, n :: ns => p &&& n == q &&& m && patternsAgree ps ms qs ns
  | _, _, _, _ => true

/-- Two patterns that match the same bytes agree. -/
theorem patternsAgree_of_matchesBytes (ps ms qs ns bs : List Byte) (hp : matchesBytes ps ms bs = true)
    (hq : matchesBytes qs ns bs = true) : patternsAgree ps ms qs ns = true := by
  induction bs generalizing ps ms qs ns with
  | nil =>
    cases ps with
    | nil => rfl
    | cons p ps => cases ms <;> cases hp
  | cons b bs ih =>
    match ps, ms, qs, ns with
    | [], _, _, _ => rfl
    | _ :: _, [], _, _ => rfl
    | _ :: _, _ :: _, [], _ => rfl
    | _ :: _, _ :: _, _ :: _, [] => rfl
    | p :: ps, m :: ms, q :: qs, n :: ns =>
      simp only [matchesBytes, Bool.and_eq_true, beq_iff_eq] at hp hq
      obtain ⟨rfl, hps⟩ := hp
      obtain ⟨rfl, hqs⟩ := hq
      have hfirst : (b &&& m) &&& n = (b &&& n) &&& m := by rw [BitVec.and_assoc, BitVec.and_comm m n, BitVec.and_assoc]
      simp only [patternsAgree, Bool.and_eq_true, beq_iff_eq]
      exact ⟨hfirst, ih ps ms qs ns hps hqs⟩

/-- The table is unambiguous: two rows that agree are one row. -/
theorem opcodeRows_unambiguous : ∀ j k : Fin opcodeRows.length,
    patternsAgree opcodeRows[j].pattern opcodeRows[j].mask opcodeRows[k].pattern opcodeRows[k].mask = true → j = k := by
  decide

/-- No bytes match two rows. -/
theorem accepts_unique (j k : Nat) (hj : j < opcodeRows.length) (hk : k < opcodeRows.length) (bs : List Byte)
    (hrow : (opcodeRows[j]'hj).accepts bs = true) (hrow' : (opcodeRows[k]'hk).accepts bs = true) : j = k :=
  Fin.mk.inj (opcodeRows_unambiguous ⟨j, hj⟩ ⟨k, hk⟩ (patternsAgree_of_matchesBytes _ _ _ _ bs hrow hrow'))

/-! ## The row of an encoding -/

/-- `L` and `pp` of VEX2. -/
theorem vex2Byte_masked (r : BitVec 1) (vvvv : BitVec 4) (l : BitVec 1) :
    vex2Byte r vvvv l &&& 0x07 = 0#5 ++ l ++ 0#2 := by
  revert r vvvv l
  decide

/-- The map of VEX3. -/
theorem vex3Byte0_masked (r x b : BitVec 1) : vex3Byte0 r x b &&& 0x1F = 0x01 := by
  revert r x b
  decide

/-- `L` and `pp` of VEX3. -/
theorem vex3Byte1_masked (vvvv : BitVec 4) (l : BitVec 1) : vex3Byte1 vvvv l &&& 0x07 = 0#5 ++ l ++ 0#2 := by
  revert vvvv l
  decide

/-- The map of EVEX. -/
theorem evexByte0_masked (r x b r' : BitVec 1) : evexByte0 r x b r' &&& 0x0F = 0x01 := by
  revert r x b r'
  decide

/-- `W`, P1 bit 2 and `pp` of EVEX. -/
theorem evexByte1_masked (vvvv : BitVec 4) : evexByte1 vvvv &&& 0x87 = 0x04 := by
  revert vvvv
  decide

/-- `L'L` of EVEX. -/
theorem evexByte2_masked (z : Bool) (ll : BitVec 2) (b : Bool) (aaa : KReg) :
    evexByte2 z ll b aaa &&& 0x60 = 0#1 ++ ll ++ 0#5 := by
  revert z ll b aaa
  decide

theorem rowIndex_lt (i : Instr) : i.rowIndex < opcodeRows.length := by
  have hi : i.rowIndex ≤ 7 := by cases i <;> simp [Instr.rowIndex]
  exact Nat.lt_succ_of_le hi

/-- The bytes of LEGACY after its prefixes and its REX byte. -/
theorem drop_lead_legacy (p : Prefixes) (rex : Bool) (dst : VReg) (src : Rm) :
    (encode (.cvtps2pd p rex dst src)).drop (Instr.lead (.cvtps2pd p rex dst src)) =
      0x0F :: 0x5A :: src.encode (dstLow dst) := by
  have hcount : p.encode.length = p.count := spelledBy_length p p.encode (spelledBy_encode p)
  exact List.drop_left' (by cases rex <;> simp [Instr.lead, hcount])

theorem matches_encodeVex2 (p : Prefixes) (l : BitVec 1) (vvvv : BitVec 4) (dst : VReg) (src : Rm) (p0 : Byte)
    (h : vex2Byte (dstR dst) vvvv l &&& 0x07 = p0) :
    matchesBytes [0xC5, p0, 0x5A] [0xFF, 0x07, 0xFF] ((encodeVex2 p l vvvv dst src).drop p.count) = true := by
  rw [encodeVex2, drop_prefixes]
  simp only [matchesBytes, h, beq_self_eq_true, Bool.true_and, Bool.and_true]
  decide

theorem matches_encodeVex3 (p : Prefixes) (l : BitVec 1) (vvvv : BitVec 4) (dst : VReg) (src : Rm) (p1 : Byte)
    (h : vex3Byte1 vvvv l &&& 0x07 = p1) :
    matchesBytes [0xC4, 0x01, p1, 0x5A] [0xFF, 0x1F, 0x07, 0xFF] ((encodeVex3 p l vvvv dst src).drop p.count) = true := by
  rw [encodeVex3, drop_prefixes]
  simp only [matchesBytes, vex3Byte0_masked, h, beq_self_eq_true, Bool.true_and, Bool.and_true]
  decide

theorem matches_encodeEvex (p : Prefixes) (ll : BitVec 2) (vvvv : BitVec 4) (aaa : KReg) (z b : Bool) (dst : VReg)
    (src : Rm) (p2 : Byte) (h : evexByte2 z ll b aaa &&& 0x60 = p2) :
    matchesBytes [0x62, 0x01, 0x04, p2, 0x5A] [0xFF, 0x0F, 0x87, 0x60, 0xFF]
      ((encodeEvex p ll vvvv aaa z b dst src).drop p.count) = true := by
  rw [encodeEvex, drop_prefixes]
  simp only [matchesBytes, evexByte0_masked, evexByte1_masked, h, beq_self_eq_true, Bool.true_and, Bool.and_true]
  decide

/-- The bytes of every instruction match its own row. -/
theorem accepts_encode (i : Instr) :
    (opcodeRows[i.rowIndex]'(rowIndex_lt i)).accepts ((encode i).drop i.lead) = true := by
  cases i with
  | cvtps2pd p rex dst src =>
    rw [drop_lead_legacy]
    rfl
  | vcvtps2pd128Vex2 p v dst src => exact matches_encodeVex2 p 0 v dst src 0x00 (vex2Byte_masked _ v 0)
  | vcvtps2pd256Vex2 p v dst src => exact matches_encodeVex2 p 1 v dst src 0x04 (vex2Byte_masked _ v 1)
  | vcvtps2pd128Vex3 p v dst src => exact matches_encodeVex3 p 0 v dst src 0x00 (vex3Byte1_masked v 0)
  | vcvtps2pd256Vex3 p v dst src => exact matches_encodeVex3 p 1 v dst src 0x04 (vex3Byte1_masked v 1)
  | vcvtps2pd128Evex p v a z b dst src => exact matches_encodeEvex p 0 v a z b dst src 0x00 (evexByte2_masked z 0 b a)
  | vcvtps2pd256Evex p v a z b dst src => exact matches_encodeEvex p 1 v a z b dst src 0x20 (evexByte2_masked z 1 b a)
  | vcvtps2pd512Evex p v a z b dst src => exact matches_encodeEvex p 2 v a z b dst src 0x40 (evexByte2_masked z 2 b a)

/-- Settles O48: an encoding matches its own row, and no bytes match two. -/
theorem encodingMatchesItsRowAlone : Obligations.EncodingMatchesItsRowAlone := by
  intro i k hk
  constructor
  · exact fun h => accepts_unique k i.rowIndex hk (rowIndex_lt i) _ h (accepts_encode i)
  · rintro rfl
    exact accepts_encode i

/-- Settles O55: four closed words, evaluated. -/
theorem sampleWordsDecode : Obligations.SampleWordsDecode := by
  unfold Obligations.SampleWordsDecode
  decide

end Sys2Proof
end

section
/-!
PROOFS for spec/30_encoding.md R99: outside RIP-relative addressing the length of an instruction says where `pc` ends, and
nothing else.
-/
namespace Sys2Proof.Machine

/-- An outcome whose next state, if it is one, has its `pc` `n` bytes further. -/
def advanceResult (n : Nat) : Result → Result
  | .next t => .next (t.advance n)
  | .fault f => .fault f
  | .refused r => .refused r

theorem advance_add (s : State) (m n : Nat) : s.advance (m + n) = (s.advance m).advance n := by
  simp only [State.advance, BitVec.ofNat_add, BitVec.add_assoc]

theorem advance_injective (n : Nat) : Function.Injective (State.advance · n) := by
  intro s t h
  have hrip : s.rip + BitVec.ofNat 64 n = t.rip + BitVec.ofNat 64 n := congrArg State.rip h
  have back : ∀ u : State, { u.advance n with rip := u.rip } = u := fun _ => rfl
  calc s = { s.advance n with rip := s.rip } := (back s).symm
    _ = { t.advance n with rip := t.rip } := by rw [show s.advance n = t.advance n from h, add_right_cancel hrip]
    _ = t := back t

theorem advanceResult_eq_next_iff (n : Nat) (r : Result) (t : State) :
    advanceResult n r = .next (t.advance n) ↔ r = .next t := by
  cases r with
  | next u => simp [advanceResult, (advance_injective n).eq_iff]
  | fault f => simp [advanceResult]
  | refused r => simp [advanceResult]

theorem advanceResult_eq_fault_iff (n : Nat) (r : Result) (f : Fault) : advanceResult n r = .fault f ↔ r = .fault f := by
  cases r <;> simp [advanceResult]

/-- Only a RIP-relative address depends on the length (R71). -/
theorem linearAddress_len (s : State) (c : Operation) (n : Nat) (m : MemForm) (hm : ∀ d, m ≠ .ripRel d) :
    s.linearAddress { c with len := n } m = s.linearAddress c m := by
  cases m with
  | ripRel d => exact absurd rfl (hm d)
  | base b d => rfl
  | sib sc i b d => rfl
  | sibNoBase sc i d => rfl

theorem readSource_len (s : State) (c : Operation) (n : Nat) (hsrc : ∀ d, c.src ≠ .mem (.ripRel d)) :
    s.readSource { c with len := n } = s.readSource c := by
  obtain ⟨form, pre, vvvv, aaa, z, b, dst, src, len⟩ := c
  cases src with
  | reg k => rfl
  | mem m =>
    have hea := linearAddress_len s ⟨form, pre, vvvv, aaa, z, b, dst, .mem m, len⟩ n m fun d hd => hsrc d (hd ▸ rfl)
    simp only [State.readSource, hea]
    rfl

theorem finish_len (s : State) (c : Operation) (n : Nat) (src : SrcValue) :
    s.finish { c with len := c.len + n } src = advanceResult n (s.finish c src) := by
  by_cases hm : allMasked (s.signals c src) s.mxcsr
  · rw [finish_masked s c src hm, finish_masked s { c with len := c.len + n } src hm, advanceResult, ← completed_eq,
      ← completed_eq, ← advance_add]
    rfl
  · rw [finish_unmasked s c src hm, finish_unmasked s { c with len := c.len + n } src hm, advanceResult]
    rfl

/-- The same fields with a length `n` bytes greater: the same outcome, `pc` `n` bytes further. -/
theorem convertPacked_len (c : Operation) (n : Nat) (s : State) (hsrc : ∀ d, c.src ≠ .mem (.ripRel d)) :
    convertPacked { c with len := c.len + n } s = advanceResult n (convertPacked c s) := by
  have hreserved : Operation.reserved { c with len := c.len + n } = c.reserved := rfl
  simp only [convertPacked, hreserved, readSource_len s c _ hsrc, finish_len, raise]
  split
  · rfl
  · split
    · rfl
    · split
      · rfl
      · split <;> rfl

/-- The fields of `j` are those of `i`, but for a length one byte greater. -/
def OneByteLonger (i j : Instr) : Prop := operationOf j = { operationOf i with len := (operationOf i).len + 1 }

theorem exec_oneByteLonger (i j : Instr) (s : State) (h : OneByteLonger i j)
    (hsrc : ∀ d, (operationOf i).src ≠ .mem (.ripRel d)) : exec j s = advanceResult 1 (exec i s) := by
  rw [exec_eq, exec_eq, h, convertPacked_len _ _ _ hsrc]

theorem vex3_oneByteLonger_128 (p : Prefixes) (vvvv : BitVec 4) (dst : VReg) (src : Rm) :
    OneByteLonger (.vcvtps2pd128Vex2 p vvvv dst src) (.vcvtps2pd128Vex3 p vvvv dst src) := by
  have hlen : (Instr.vcvtps2pd128Vex3 p vvvv dst src).length = (Instr.vcvtps2pd128Vex2 p vvvv dst src).length + 1 := by
    simp only [Instr.length]
    omega
  simp only [OneByteLonger, operationOf, opVex, hlen]

theorem vex3_oneByteLonger_256 (p : Prefixes) (vvvv : BitVec 4) (dst : VReg) (src : Rm) :
    OneByteLonger (.vcvtps2pd256Vex2 p vvvv dst src) (.vcvtps2pd256Vex3 p vvvv dst src) := by
  have hlen : (Instr.vcvtps2pd256Vex3 p vvvv dst src).length = (Instr.vcvtps2pd256Vex2 p vvvv dst src).length + 1 := by
    simp only [Instr.length]
    omega
  simp only [OneByteLonger, operationOf, opVex, hlen]

/-- Settles O18: the two spellings have the same fields but for a length one byte greater. -/
theorem vexSpellingsAgree : Obligations.VexSpellingsAgree := by
  intro p vvvv dst src s t hsrc
  have h128 := exec_oneByteLonger _ _ s (vex3_oneByteLonger_128 p vvvv dst src) hsrc
  have h256 := exec_oneByteLonger _ _ s (vex3_oneByteLonger_256 p vvvv dst src) hsrc
  rw [h128, h256]
  exact ⟨(advanceResult_eq_next_iff 1 _ t).symm, (advanceResult_eq_next_iff 1 _ t).symm,
    fun e u => (advanceResult_eq_fault_iff 1 _ _).symm, fun e u => (advanceResult_eq_fault_iff 1 _ _).symm⟩

end Sys2Proof.Machine
end

section
/-!
PROOFS for spec/40_cvtps2pd.md R141 to R146, R148, R152: each form past its checks, from a register and from a full memory
operand. LEGACY and VEX are the case `aaa = 0`, `z = 0`, `b = 0` of the EVEX fields.
-/
namespace Sys2Proof.Machine

/-! ## The elements of a source -/

/-- The source of an operation can be read, and its elements are the words `w` (R147). -/
def State.sourceIs (s : State) (c : Operation) (w : Nat → Single) : Prop :=
  ∃ src, s.readSource c = .ok src ∧ ∀ j < c.form.kl, srcLane src j = w j

theorem sourceIs_regWord (s : State) (c : Operation) (n : VReg) (hsrc : c.src = .reg n) : s.sourceIs c (s.regWord n) :=
  ⟨s.regSource c.form n, by simp only [State.readSource, hsrc], srcLane_regSource s c.form n⟩

theorem sourceIs_memWord (s : State) (c : Operation) (m : MemForm) (f : Form) (hf : c.form = f) (hsrc : c.src = .mem m)
    (hb : c.b = false) (hread : s.readable (s.linearAddress c m) (f.vl / 16)) :
    s.sourceIs c (s.memWord (s.linearAddress c m)) := by
  subst hf
  have hfull : c.broadcast = false := by rw [broadcast_of_mem c m hsrc, hb]
  rw [← memBytes_of_not_broadcast c hfull] at hread
  exact ⟨_, readSource_of_readable s c m hsrc hread, fun j hj => srcLane_memValue s c _ j hfull hj⟩

/-! ## Completion of each form -/

/-- Without a writemask every element is active (R148). -/
theorem maskBit_zero (s : State) : s.maskBit 0 = fun _ => true := rfl

theorem reserved_of_b_false (c : Operation) (hb : c.b = false) (hz : ¬ (c.z = true ∧ c.aaa = 0)) : c.reserved = none := by
  simpa [Operation.reserved, Operation.sae, hb] using hz

/-- An instruction with the fields of an EVEX form, `b = 0`: completion, the elements and the upper bits. -/
theorem exec_completes_of_fields (f : Form) (p : Prefixes) (aaa : KReg) (z : Bool) (dst : VReg) (src : Rm) (i : Instr)
    (s : State) (w : Nat → Single) (hop : operationOf i = opEvex f p 15 aaa z false dst src i.length)
    (hz : ¬ (z = true ∧ aaa = 0)) (hp : s.premises f) (hw : s.sourceIs (operationOf i) w)
    (hmask : allMasked (elementSignals f.kl (s.maskBit aaa) w s.daz) s.mxcsr) :
    ∃ x, exec i s = .next (s.completed dst x (elementSignals f.kl (s.maskBit aaa) w s.daz) i.length) ∧
      lanesAre f.kl (s.maskBit aaa) z w s.daz (s.vreg dst) x ∧
      ∀ k, f.vl ≤ k → x.getLsbD k = if f = .legacy then (s.vreg dst).getLsbD k else false := by
  obtain ⟨v, hread, hlanes⟩ := hw
  have hcompletes := exec_completes i s v w
  rw [hop] at hread hlanes hcompletes
  exact hcompletes rfl (reserved_of_b_false _ rfl hz) hp hread rfl hlanes hmask

theorem legacy_completes (p : Prefixes) (rex : Bool) (dst : VReg) (src : Rm) (s : State) (w : Nat → Single)
    (hp : s.premises .legacy) (hw : s.sourceIs (operationOf (.cvtps2pd p rex dst src)) w)
    (hmask : allMasked (elementSignals 2 (fun _ => true) w s.daz) s.mxcsr) :
    ∃ x, exec (.cvtps2pd p rex dst src) s =
        .next (s.completed dst x (elementSignals 2 (fun _ => true) w s.daz) (Instr.cvtps2pd p rex dst src).length) ∧
      lanesAre 2 (fun _ => true) false w s.daz (s.vreg dst) x ∧ upperKept 128 (s.vreg dst) x :=
  exec_completes_of_fields .legacy p 0 false dst src _ s w rfl (by simp) hp hw hmask

/-- The fields of a VEX instruction are those of an EVEX form without a writemask. -/
theorem operationOf_of_isVexInstr (f : Form) (p : Prefixes) (vvvv : BitVec 4) (dst : VReg) (src : Rm) (i : Instr)
    (h : isVexInstr f p vvvv dst src i) : operationOf i = opEvex f p vvvv 0 false false dst src i.length := by
  rcases h with ⟨rfl, rfl | rfl⟩ | ⟨rfl, rfl | rfl⟩ <;> rfl

theorem ne_legacy_of_isVexInstr (f : Form) (p : Prefixes) (vvvv : BitVec 4) (dst : VReg) (src : Rm) (i : Instr)
    (h : isVexInstr f p vvvv dst src i) : f ≠ .legacy := by
  rcases h with ⟨rfl, -⟩ | ⟨rfl, -⟩ <;> simp

theorem vex_completes (f : Form) (p : Prefixes) (dst : VReg) (src : Rm) (i : Instr) (s : State) (w : Nat → Single)
    (hi : isVexInstr f p 15 dst src i) (hp : s.premises f) (hw : s.sourceIs (operationOf i) w)
    (hmask : allMasked (elementSignals f.kl (fun _ => true) w s.daz) s.mxcsr) :
    ∃ x, exec i s = .next (s.completed dst x (elementSignals f.kl (fun _ => true) w s.daz) i.length) ∧
      lanesAre f.kl (fun _ => true) false w s.daz (s.vreg dst) x ∧ upperZero f.vl x := by
  obtain ⟨x, hnext, hlanes, hupper⟩ := exec_completes_of_fields f p 0 false dst src i s w
    (operationOf_of_isVexInstr f p 15 dst src i hi) (by simp) hp hw hmask
  exact ⟨x, hnext, hlanes, fun k hk => (hupper k hk).trans (if_neg (ne_legacy_of_isVexInstr f p 15 dst src i hi))⟩

theorem evex_completes (f : Form) (p : Prefixes) (aaa : KReg) (z : Bool) (dst : VReg) (src : Rm) (i : Instr) (s : State)
    (w : Nat → Single) (hi : isEvexInstr f p 15 aaa z false dst src i) (hz : ¬ (z = true ∧ aaa = 0)) (hp : s.premises f)
    (hw : s.sourceIs (operationOf i) w) (hmask : allMasked (elementSignals f.kl (s.maskBit aaa) w s.daz) s.mxcsr) :
    ∃ x, exec i s = .next (s.completed dst x (elementSignals f.kl (s.maskBit aaa) w s.daz) i.length) ∧
      lanesAre f.kl (s.maskBit aaa) z w s.daz (s.vreg dst) x ∧ upperZero f.vl x := by
  obtain ⟨x, hnext, hlanes, hupper⟩ := exec_completes_of_fields f p aaa z dst src i s w
    (operationOf_of_isEvexInstr f p 15 aaa z false dst src i hi) hz hp hw hmask
  exact ⟨x, hnext, hlanes,
    fun k hk => (hupper k hk).trans (if_neg (ne_legacy_of_isEvexInstr f p 15 aaa z false dst src i hi))⟩

/-! ## The results -/

/-- Settles O6: the source elements are the words of the register. -/
theorem legacyRegisterResult : Obligations.LegacyRegisterResult :=
  fun p rex dst n s hp hmask => legacy_completes p rex dst (.reg n) s _ hp (sourceIs_regWord s _ n rfl) hmask

/-- Settles O7: the source elements are the two words at the operand's address. -/
theorem legacyMemoryResult : Obligations.LegacyMemoryResult := by
  rintro p rex dst m s _ hp rfl hread hmask
  exact legacy_completes p rex dst (.mem m) s _ hp (sourceIs_memWord s _ m .legacy rfl rfl rfl hread) hmask

/-- Settles O8: the VEX fields are EVEX fields without a writemask, and the source elements the words of the register. -/
theorem vexRegisterResult : Obligations.VexRegisterResult := by
  intro f p dst n i s hi hp hmask
  have hop := operationOf_of_isVexInstr f p 15 dst (.reg n) i hi
  exact vex_completes f p dst (.reg n) i s _ hi hp (sourceIs_regWord s _ n (by rw [hop]; rfl)) hmask

/-- Settles O9: as from a register, the source elements the words of a readable full operand. -/
theorem vexMemoryResult : Obligations.VexMemoryResult := by
  rintro f p dst m i s _ hi hp rfl hread hmask
  have hop := operationOf_of_isVexInstr f p 15 dst (.mem m) i hi
  have hw := sourceIs_memWord s (operationOf i) m f (by rw [hop]; rfl) (by rw [hop]; rfl) (by rw [hop]; rfl) hread
  exact vex_completes f p dst (.mem m) i s _ hi hp hw hmask

/-- Settles O10: the source elements are the words of the register, and `b = 0` leaves no reserved combination but
zeroing without a writemask. -/
theorem evexRegisterResult : Obligations.EvexRegisterResult := by
  intro f p aaa z dst n i s hi hz hp hmask
  have hop := operationOf_of_isEvexInstr f p 15 aaa z false dst (.reg n) i hi
  exact evex_completes f p aaa z dst (.reg n) i s _ hi hz hp (sourceIs_regWord s _ n (by rw [hop]; rfl)) hmask

/-- Settles O11: as from a register, the source elements the words of a readable full operand, masked-off ones read too. -/
theorem evexMemoryResult : Obligations.EvexMemoryResult := by
  rintro f p aaa z dst m i s _ hi hz hp rfl hread hmask
  have hop := operationOf_of_isEvexInstr f p 15 aaa z false dst (.mem m) i hi
  have hw := sourceIs_memWord s (operationOf i) m f (by rw [hop]; rfl) (by rw [hop]; rfl) (by rw [hop]; rfl) hread
  exact evex_completes f p aaa z dst (.mem m) i s _ hi hz hp hw hmask

end Sys2Proof.Machine
end

section
/-!
PROOFS for spec/40_cvtps2pd.md R150 with spec/20_memory.md R66: an all-zero writemask.
-/
namespace Sys2Proof.Machine

theorem maskBit_of_ne_zero (s : State) (aaa : KReg) (j : Nat) (h : aaa ≠ 0) :
    s.maskBit aaa j = (s.kreg aaa).getLsbD j := by
  rw [State.maskBit, beq_eq_false_iff_ne.mpr h, Bool.false_or]

theorem elementSignals_of_inactive (kl : Nat) (on : Nat → Bool) (w : Nat → Single) (daz : Bool)
    (h : ∀ j < kl, on j = false) : elementSignals kl on w daz = ⟨false, false⟩ := by
  have hnone : ∀ g : Nat → Bool, (List.range kl).any (fun j => on j && g j) = false := fun g =>
    List.any_eq_false.mpr fun j hj => by simp [h j (List.mem_range.mp hj)]
  simp only [elementSignals, hnone]

/-- Inactive elements signal nothing, with and without `sae` (R183). -/
theorem signals_of_inactive (s : State) (c : Operation) (src : SrcValue)
    (h : ∀ j < c.form.kl, s.maskBit c.aaa j = false) : s.signals c src = ⟨false, false⟩ := by
  rw [signals_eq, elementSignals_of_inactive _ _ _ _ h, ite_self]

theorem allMasked_nothing (m : BitVec 32) : allMasked ⟨false, false⟩ m := ⟨nofun, nofun⟩

/-- A source that is a register, or a readable memory operand, full or broadcast, gives a value. -/
theorem readSource_ok (s : State) (c : Operation)
    (h : ∀ m, c.src = .mem m → s.readable (s.linearAddress c m) c.memBytes) : ∃ src, s.readSource c = .ok src := by
  cases hsrc : c.src with
  | reg n => exact ⟨s.regSource c.form n, by simp only [State.readSource, hsrc]⟩
  | mem m => exact ⟨_, readSource_of_readable s c m hsrc (h m hsrc)⟩

/-- Settles O14: with no element active the source is read, nothing is signalled, and each element is kept or zeroed. -/
theorem allZeroWritemask : Obligations.AllZeroWritemask := by
  intro f p aaa z b dst src i s hi hwf haaa hzero hp
  have hop := operationOf_of_isEvexInstr f p 15 aaa z b dst src i hi
  have hform : (operationOf i).form = f := by rw [hop]; rfl
  have hdst : (operationOf i).dst = dst := by rw [hop]; rfl
  have hsrc : (operationOf i).src = src := by rw [hop]; rfl
  have hv : (operationOf i).vvvv = 15 := by rw [hop]; rfl
  have hoff : ∀ j < f.kl, s.maskBit aaa j = false := fun j hj => by rw [maskBit_of_ne_zero s aaa j haaa, hzero j hj]
  rw [← hform] at hp
  refine ⟨fun hread => ?_, fun m e hm hfault => exec_of_memRead_fault i m s e hwf hv hp (hsrc.trans hm) hfault⟩
  obtain ⟨v, hsource⟩ := readSource_ok s (operationOf i) fun m hm => hread m (hsrc.symm.trans hm)
  have hsig : s.signals (operationOf i) v = ⟨false, false⟩ := signals_of_inactive s _ v (by rw [hop]; exact hoff)
  refine ⟨s.destValue (operationOf i) v, ?_, fun j hj => ?_, fun k hk => ?_⟩
  · rw [exec_ready i s v hv (reserved_of_wf i hwf hv) hp hsource,
      finish_masked s _ v (by rw [hsig]; exact allMasked_nothing _), hsig, hdst, operationOf_len]
  · have hlane := lanesAre_destValue s (operationOf i) v j (by rwa [hform])
    rw [hop] at hlane ⊢
    exact hlane.trans (if_neg (by simp [opEvex, hoff j hj]))
  · rw [upper_destValue s _ v k (by rwa [hform]), hform,
      if_neg (ne_legacy_of_isEvexInstr f p 15 aaa z b dst src i hi)]

end Sys2Proof.Machine
end

section
/-!
PROOFS for spec/40_cvtps2pd.md R144: two operations that pass their checks, read the same source value and convert it
alike leave the same state but for `pc`, and raise the same numeric fault.
-/
namespace Sys2Proof.Machine

/-! ## Operations that convert alike -/

/-- An operation comes to the read of its source (R140 lines 1 and 2). -/
def State.passesChecks (s : State) (c : Operation) : Prop :=
  c.vvvv = 15 ∧ c.reserved = none ∧ s.classCheck c.form = none

/-- Both operations come to the read of their source, read the same value if either reads one, and get the same signals
and the same destination from it. -/
structure ConvertAlike (s : State) (c c' : Operation) : Prop where
  checks : s.passesChecks c
  checks' : s.passesChecks c'
  source : ∀ v, s.readSource c = .ok v ↔ s.readSource c' = .ok v
  dst : c.dst = c'.dst
  signals : ∀ v, s.signals c v = s.signals c' v
  value : ∀ v, s.destValue c v = s.destValue c' v

theorem ConvertAlike.symm {s : State} {c c' : Operation} (h : ConvertAlike s c c') : ConvertAlike s c' c where
  checks := h.checks'
  checks' := h.checks
  source v := (h.source v).symm
  dst := h.dst.symm
  signals v := (h.signals v).symm
  value v := (h.value v).symm

theorem convertPacked_of_passesChecks (s : State) (c : Operation) (src : SrcValue) (h : s.passesChecks c)
    (hs : s.readSource c = .ok src) : convertPacked c s = s.finish c src := by
  obtain ⟨hv, hr, hc⟩ := h
  exact convertPacked_ready c s src hv hr hc hs

theorem ConvertAlike.next {s t : State} {c c' : Operation} (h : ConvertAlike s c c') (hnext : convertPacked c s = .next t) :
    convertPacked c' s = .next { t with rip := s.rip + BitVec.ofNat 64 c'.len } := by
  obtain ⟨-, -, -, v, hread, hmask, rfl⟩ := convertPacked_next c s t hnext
  rw [h.signals] at hmask
  rw [convertPacked_of_passesChecks s c' v h.checks' ((h.source v).mp hread), finish_masked s c' v hmask, h.signals,
    h.value, h.dst]
  rfl

/-- Past the checks `#XM` and `#UD` are numeric: the memory source raises neither. -/
theorem convertPacked_numeric_fault (c : Operation) (s t : State) (e : Exception) (hc : s.passesChecks c)
    (he : e = .simdFloatingPoint ∨ e = .invalidOpcode) (h : convertPacked c s = .fault (.raised e t)) :
    ∃ v, s.readSource c = .ok v ∧ ¬ allMasked (s.signals c v) s.mxcsr ∧ e = s.simdException ∧
      t = s.setMxcsr (recordSignals (s.signals c v) s.mxcsr) := by
  obtain ⟨hv, -, hclass⟩ := hc
  rcases convertPacked_fault c s t e h with ⟨-, ⟨hne, -⟩ | hsome | hread⟩ | hnumeric
  · exact absurd hv hne
  · rw [hclass] at hsome
    cases hsome
  · obtain ⟨m, -, hmem⟩ := readSource_fault s c e hread
    rcases he with rfl | rfl <;> simpa using memRead_fault s _ _ _ _ hmem
  · exact hnumeric

theorem ConvertAlike.fault {s t : State} {c c' : Operation} {e : Exception} (h : ConvertAlike s c c')
    (he : e = .simdFloatingPoint ∨ e = .invalidOpcode) (hfault : convertPacked c s = .fault (.raised e t)) :
    convertPacked c' s = .fault (.raised e t) := by
  obtain ⟨v, hread, hmask, rfl, rfl⟩ := convertPacked_numeric_fault c s t e h.checks he hfault
  rw [h.signals] at hmask ⊢
  rw [convertPacked_of_passesChecks s c' v h.checks' ((h.source v).mp hread), finish_unmasked s c' v hmask]

/-! ## EVEX.128 without a writemask and VEX.128 -/

/-- A memory source read in full: the bytes at its address, SS-relative or not. -/
theorem readSource_mem_ok_iff (s : State) (c : Operation) (m : MemForm) (v : SrcValue) (hsrc : c.src = .mem m) :
    s.readSource c = .ok v ↔ ∃ x, s.memRead false (s.linearAddress c m) c.memBytes = .ok x ∧ c.memValue x = v := by
  have hstack : ∀ x, s.memRead (c.stackAccess m) (s.linearAddress c m) c.memBytes = .ok x ↔
      s.memRead false (s.linearAddress c m) c.memBytes = .ok x :=
    fun x => ⟨memRead_ok_stack s _ _ _ _ x, memRead_ok_stack s _ _ _ _ x⟩
  simp only [State.readSource, hsrc, ← hstack]
  cases s.memRead (c.stackAccess m) (s.linearAddress c m) c.memBytes <;> simp

theorem readSource_ok_congr_mem (s : State) (c c' : Operation) (m m' : MemForm) (v : SrcValue) (hsrc : c.src = .mem m)
    (hsrc' : c'.src = .mem m') (hea : s.linearAddress c m = s.linearAddress c' m') (hbytes : c.memBytes = c'.memBytes)
    (hvalue : ∀ x, c.memValue x = c'.memValue x) : s.readSource c = .ok v ↔ s.readSource c' = .ok v := by
  simp only [readSource_mem_ok_iff s c m v hsrc, readSource_mem_ok_iff s c' m' v hsrc', hea, hbytes, hvalue]

/-- The operand of R144: one register, or memory at one linear address. -/
def SameOperand (s : State) (c c' : Operation) : Prop :=
  (∃ n, c.src = .reg n ∧ c'.src = .reg n) ∨
    ∃ m m', c.src = .mem m ∧ c'.src = .mem m' ∧ s.linearAddress c m = s.linearAddress c' m'

theorem convertAlike_vex128_evex128 (p p' : Prefixes) (dst : VReg) (src src' : Rm) (n n' : Nat) (s : State)
    (hvex : s.premises .vex128) (hevex : s.premises .evex128)
    (hsame : SameOperand s (opVex .vex128 p 15 dst src n) (opEvex .evex128 p' 15 0 false false dst src' n')) :
    ConvertAlike s (opVex .vex128 p 15 dst src n) (opEvex .evex128 p' 15 0 false false dst src' n') where
  checks := ⟨rfl, rfl, classCheck_of_premises s _ hvex⟩
  checks' := ⟨rfl, rfl, classCheck_of_premises s _ hevex⟩
  source v := by
    rcases hsame with ⟨k, hsrc, hsrc'⟩ | ⟨m, m', hsrc, hsrc', hea⟩
    · simp only [State.readSource, hsrc, hsrc']
      rfl
    · exact readSource_ok_congr_mem s _ _ m m' v hsrc hsrc' hea rfl fun _ => rfl
  dst := rfl
  signals _ := rfl
  value _ := rfl

/-- Settles O19: the two convert alike, so each outcome of one gives that of the other, `pc` by its own length. -/
theorem evexWithoutMaskIsVex : Obligations.EvexWithoutMaskIsVex := by
  rintro p p' dst src src' i j s t hi rfl hvex hevex hoperand
  have halike : ConvertAlike s (operationOf i) (operationOf (.vcvtps2pd128Evex p' 15 0 false false dst src')) := by
    rcases hi with ⟨-, rfl | rfl⟩ | ⟨hform, -⟩
    · exact convertAlike_vex128_evex128 p p' dst src src' _ _ s hvex hevex hoperand
    · exact convertAlike_vex128_evex128 p p' dst src src' _ _ s hvex hevex hoperand
    · cases hform
  simp only [exec_eq, ← operationOf_len]
  exact ⟨halike.next, halike.symm.next, fun e he => ⟨halike.fault he, halike.symm.fault he⟩⟩

end Sys2Proof.Machine
end

section
/-!
PROOFS for spec/41_numerics.md R170 to R180: the classes of both formats by their fields, and the conversion by the class
of its operand.
-/
namespace Sys2Proof.Machine

/-! ## The fields of both formats (R170, R171) -/

@[simp] theorem singleSign_append (s : BitVec 1) (e : BitVec 8) (f : BitVec 23) : singleSign (s ++ e ++ f) = s := by
  rw [singleSign, BitVec.append_assoc, BitVec.cast_eq]
  exact BitVec.extractLsb'_append_eq_left

@[simp] theorem singleExp_append (s : BitVec 1) (e : BitVec 8) (f : BitVec 23) : singleExp (s ++ e ++ f) = e := by
  rw [singleExp, BitVec.extractLsb'_append_eq_of_le (by decide)]
  exact BitVec.extractLsb'_append_eq_right

@[simp] theorem singleFrac_append (s : BitVec 1) (e : BitVec 8) (f : BitVec 23) : singleFrac (s ++ e ++ f) = f :=
  BitVec.extractLsb'_append_eq_right

/-- A single is its three fields. -/
theorem append_singleFields (w : Single) : singleSign w ++ singleExp w ++ singleFrac w = w := by
  have hhigh : singleSign w ++ singleExp w = w.extractLsb' 23 9 :=
    BitVec.extractLsb'_append_extractLsb'_eq_extractLsb' rfl
  have hall : w.extractLsb' 23 9 ++ singleFrac w = w.extractLsb' 0 32 :=
    BitVec.extractLsb'_append_extractLsb'_eq_extractLsb' rfl
  rw [hhigh, hall, BitVec.extractLsb'_eq_self]

@[simp] theorem doubleSign_packDouble (s : BitVec 1) (e : BitVec 11) (f : BitVec 52) :
    doubleSign (packDouble s e f) = s := by
  rw [doubleSign, packDouble, BitVec.append_assoc, BitVec.cast_eq]
  exact BitVec.extractLsb'_append_eq_left

@[simp] theorem doubleExp_packDouble (s : BitVec 1) (e : BitVec 11) (f : BitVec 52) :
    doubleExp (packDouble s e f) = e := by
  rw [doubleExp, packDouble, BitVec.extractLsb'_append_eq_of_le (by decide)]
  exact BitVec.extractLsb'_append_eq_right

@[simp] theorem doubleFrac_packDouble (s : BitVec 1) (e : BitVec 11) (f : BitVec 52) :
    doubleFrac (packDouble s e f) = f :=
  BitVec.extractLsb'_append_eq_right

theorem packDouble_zero (s : BitVec 1) : packDouble s 0 0 = s ++ 0#63 := by
  revert s
  decide

/-! ## The classes by the fields -/

/-- What a class says of a biased exponent and a fraction, in either format (R170, R171). -/
def FloatClass.hasFields {m n : Nat} (e : BitVec m) (f : BitVec n) : FloatClass → Prop
  | .zero => e = 0 ∧ f = 0
  | .denormal => e = 0 ∧ f ≠ 0
  | .normal => e ≠ 0 ∧ e ≠ BitVec.allOnes m
  | .infinity => e = BitVec.allOnes m ∧ f = 0
  | .quietNaN => e = BitVec.allOnes m ∧ f ≠ 0 ∧ f.getLsbD (n - 1) = true
  | .signalingNaN => e = BitVec.allOnes m ∧ f ≠ 0 ∧ f.getLsbD (n - 1) = false

theorem singleClass_eq_iff (w : Single) (c : FloatClass) :
    singleClass w = c ↔ c.hasFields (singleExp w) (singleFrac w) := by
  have hmax : BitVec.allOnes 8 = 255 := rfl
  unfold singleClass
  cases c <;> simp only [FloatClass.hasFields, hmax] <;> split_ifs <;> simp_all

theorem doubleClass_eq_iff (d : Double) (c : FloatClass) :
    doubleClass d = c ↔ c.hasFields (doubleExp d) (doubleFrac d) := by
  have hmax : BitVec.allOnes 11 = 2047 := rfl
  unfold doubleClass
  cases c <;> simp only [FloatClass.hasFields, hmax] <;> split_ifs <;> simp_all

/-- The fields of a single satisfy its class. -/
theorem singleClass_hasFields (w : Single) : (singleClass w).hasFields (singleExp w) (singleFrac w) :=
  (singleClass_eq_iff w _).mp rfl

/-! ## The fractions of the results (R175, R176) -/

theorem widenFrac_eq_append (f : BitVec 23) : widenFrac f = f ++ 0#29 := by
  refine BitVec.eq_of_getLsbD_eq fun i hi => ?_
  simp only [widenFrac, BitVec.getLsbD_shiftLeft, BitVec.getLsbD_setWidth, BitVec.getLsbD_append, BitVec.getLsbD_zero]
  by_cases hlow : i < 29
  · simp [hlow]
  · have h52 : i - 29 < 52 := by omega
    simp [hlow, hi, h52]

theorem toNat_widenFrac (f : BitVec 23) : (widenFrac f).toNat = f.toNat * 2 ^ 29 := by
  rw [widenFrac_eq_append, BitVec.toNat_append, BitVec.toNat_zero, Nat.or_zero, Nat.shiftLeft_eq]

/-- `p` is the index of the highest 1 bit (R172). -/
theorem topBit_eq_iff (f : BitVec 23) (p : Nat) (hf : f ≠ 0) :
    topBit f = p ↔ 2 ^ p ≤ f.toNat ∧ f.toNat < 2 ^ (p + 1) :=
  Nat.log2_eq_iff fun h => hf (BitVec.eq_of_toNat_eq h)

theorem topBit_bounds (f : BitVec 23) (hf : f ≠ 0) : 2 ^ topBit f ≤ f.toNat ∧ f.toNat < 2 ^ (topBit f + 1) :=
  (topBit_eq_iff f _ hf).mp rfl

theorem topBit_le (f : BitVec 23) (hf : f ≠ 0) : topBit f ≤ 22 := by
  obtain ⟨hle, -⟩ := topBit_bounds f hf
  have hlt : 2 ^ topBit f < 2 ^ 23 := lt_of_le_of_lt hle f.isLt
  have := (Nat.pow_lt_pow_iff_right (by decide)).mp hlt
  omega

/-- The fraction of R176 fits its 52 bits. -/
theorem toNat_normalizedFrac (f : BitVec 23) (hf : f ≠ 0) :
    (normalizedFrac f).toNat = (f.toNat - 2 ^ topBit f) * 2 ^ (52 - topBit f) := by
  obtain ⟨-, hlt⟩ := topBit_bounds f hf
  have hp := topBit_le f hf
  rw [normalizedFrac, BitVec.toNat_ofNat]
  refine Nat.mod_eq_of_lt ?_
  have hrest : f.toNat - 2 ^ topBit f < 2 ^ topBit f := by
    rw [pow_succ] at hlt
    omega
  calc (f.toNat - 2 ^ topBit f) * 2 ^ (52 - topBit f) < 2 ^ topBit f * 2 ^ (52 - topBit f) :=
        Nat.mul_lt_mul_of_pos_right hrest (by positivity)
    _ = 2 ^ 52 := by rw [← pow_add, Nat.add_sub_cancel' (by omega)]

/-! ## The conversion by the class of its operand (R172) -/

/-- The biased exponent of the result. -/
def resultExp (w : Single) (daz : Bool) : FloatClass → BitVec 11
  | .zero => 0
  | .denormal => if daz then 0 else BitVec.ofNat 11 (topBit (singleFrac w) + 874)
  | .normal => BitVec.ofNat 11 ((singleExp w).toNat + 896)
  | _ => 0x7FF

/-- The fraction of the result. -/
def resultFrac (w : Single) (daz : Bool) : FloatClass → BitVec 52
  | .zero | .infinity => 0
  | .denormal => if daz then 0 else normalizedFrac (singleFrac w)
  | .normal | .quietNaN => widenFrac (singleFrac w)
  | .signalingNaN => widenFrac (singleFrac w ||| 0x400000)

/-- The conversion keeps the sign; the class of its operand decides the rest and the two signals. -/
theorem cvtS2D_eq (w : Single) (daz : Bool) :
    cvtS2D w daz =
      ⟨packDouble (singleSign w) (resultExp w daz (singleClass w)) (resultFrac w daz (singleClass w)),
        decide (singleClass w = .signalingNaN), !daz && decide (singleClass w = .denormal)⟩ := by
  have hmax : BitVec.allOnes 8 = 255 := rfl
  have hfields := singleClass_hasFields w
  cases hc : singleClass w <;> rw [hc] at hfields <;>
    simp only [FloatClass.hasFields, hmax, BitVec.ofNat_eq_ofNat, ne_eq] at hfields
  case denormal => cases daz <;> simp [cvtS2D, resultExp, resultFrac, hfields]
  case quietNaN =>
    obtain ⟨hexp, hfrac, hquiet⟩ := hfields
    simp [cvtS2D, resultExp, resultFrac, hexp, hfrac, show (singleFrac w)[22] = true from hquiet]
  case signalingNaN =>
    obtain ⟨hexp, hfrac, hquiet⟩ := hfields
    simp [cvtS2D, resultExp, resultFrac, hexp, hfrac, show (singleFrac w)[22] = false from hquiet]
  case zero | normal | infinity => simp [cvtS2D, resultExp, resultFrac, hfields]

/-- R180: a signaling NaN alone signals Invalid. -/
theorem cvtS2D_ie (w : Single) (daz : Bool) : (cvtS2D w daz).ie = true ↔ singleClass w = .signalingNaN := by
  rw [cvtS2D_eq, decide_eq_true_iff]

/-- R176, R177: a denormal alone signals Denormal, and only with DAZ = 0. -/
theorem cvtS2D_de (w : Single) (daz : Bool) :
    (cvtS2D w daz).de = true ↔ daz = false ∧ singleClass w = .denormal := by
  rw [cvtS2D_eq, Bool.and_eq_true, Bool.not_eq_true', decide_eq_true_iff]

/-- The class of a single given by its fields. -/
theorem singleClass_append (s : BitVec 1) (e : BitVec 8) (f : BitVec 23) (c : FloatClass) (h : c.hasFields e f) :
    singleClass (s ++ e ++ f) = c := by
  rw [singleClass_eq_iff, singleExp_append, singleFrac_append]
  exact h

/-- R177: with DAZ = 1 a denormal is read as a zero. -/
theorem cvtS2D_denormal_daz (w : Single) (h : singleClass w = .denormal) :
    cvtS2D w true = ⟨singleSign w ++ 0#63, false, false⟩ := by
  simp [cvtS2D_eq, h, resultExp, resultFrac, ← packDouble_zero]

/-- Settles O1: the four words by evaluation, the denormals by their class. -/
theorem convertZeroInfinityAndDazDenormal : Obligations.ConvertZeroInfinityAndDazDenormal := by
  refine ⟨by decide, fun s f hf => ?_⟩
  rw [cvtS2D_denormal_daz _ (singleClass_append s 0#8 f .denormal ⟨rfl, hf⟩), singleSign_append]

/-! ## The result of a NaN (R179, R180) -/

theorem packDouble_widenFrac (s : BitVec 1) (e : BitVec 11) (f : BitVec 23) :
    packDouble s e (widenFrac f) = s ++ e ++ f ++ 0#29 := by
  rw [packDouble, widenFrac_eq_append, BitVec.append_assoc (x₁ := s ++ e), BitVec.cast_eq]

/-- Settles O4: the two classes of NaN by the top fraction bit. -/
theorem convertNaN : Obligations.ConvertNaN := by
  refine ⟨fun s f daz hf => ⟨fun hquiet => ?_, fun hsignaling => ?_⟩, cvtS2D_ie⟩
  · have hclass := singleClass_append s 255#8 f .quietNaN ⟨rfl, hf, hquiet⟩
    simp [cvtS2D_eq, hclass, resultExp, resultFrac, packDouble_widenFrac]
  · have hclass := singleClass_append s 255#8 f .signalingNaN ⟨rfl, hf, hsignaling⟩
    simp [cvtS2D_eq, hclass, resultExp, resultFrac, packDouble_widenFrac]

/-! ## The result of a finite nonzero single (R175, R176) -/

/-- An exponent between the reserved ones makes a normal double (R171). -/
theorem doubleClass_of_exp (d : Double) (hlow : 1 ≤ (doubleExp d).toNat) (hhigh : (doubleExp d).toNat ≤ 2046) :
    doubleClass d = .normal := by
  refine (doubleClass_eq_iff d .normal).mpr ⟨fun h => ?_, fun h => ?_⟩
  · rw [h] at hlow
    exact absurd hlow (by decide)
  · rw [h] at hhigh
    exact absurd hhigh (by decide)

@[simp] theorem doubleSign_cvtS2D (w : Single) (daz : Bool) : doubleSign (cvtS2D w daz).d = singleSign w := by
  rw [cvtS2D_eq, doubleSign_packDouble]

theorem toNat_doubleExp_of_normal (w : Single) (daz : Bool) (h : singleClass w = .normal) :
    (doubleExp (cvtS2D w daz).d).toNat = (singleExp w).toNat + 896 := by
  have hlt := (singleExp w).isLt
  rw [cvtS2D_eq, h, doubleExp_packDouble, resultExp, BitVec.toNat_ofNat]
  omega

theorem toNat_doubleFrac_of_normal (w : Single) (daz : Bool) (h : singleClass w = .normal) :
    (doubleFrac (cvtS2D w daz).d).toNat = (singleFrac w).toNat * 2 ^ 29 := by
  rw [cvtS2D_eq, h, doubleFrac_packDouble, resultFrac, toNat_widenFrac]

theorem toNat_doubleExp_of_denormal (w : Single) (h : singleClass w = .denormal) :
    (doubleExp (cvtS2D w false).d).toNat = topBit (singleFrac w) + 874 := by
  obtain ⟨-, hfrac⟩ := (singleClass_eq_iff w .denormal).mp h
  have hp := topBit_le _ hfrac
  rw [cvtS2D_eq, h, doubleExp_packDouble, resultExp, if_neg (by decide), BitVec.toNat_ofNat]
  omega

theorem toNat_doubleFrac_of_denormal (w : Single) (h : singleClass w = .denormal) :
    (doubleFrac (cvtS2D w false).d).toNat =
      ((singleFrac w).toNat - 2 ^ topBit (singleFrac w)) * 2 ^ (52 - topBit (singleFrac w)) := by
  obtain ⟨-, hfrac⟩ := (singleClass_eq_iff w .denormal).mp h
  rw [cvtS2D_eq, h, doubleFrac_packDouble, resultFrac, if_neg (by decide), toNat_normalizedFrac _ hfrac]

/-- A normal single has a biased exponent in 1..254 (R170). -/
theorem toNat_singleExp_of_normal (w : Single) (h : singleClass w = .normal) :
    1 ≤ (singleExp w).toNat ∧ (singleExp w).toNat ≤ 254 := by
  obtain ⟨hzero, hmax⟩ := (singleClass_eq_iff w .normal).mp h
  have hlt := (singleExp w).isLt
  have hz : (singleExp w).toNat ≠ 0 := fun h0 => hzero (BitVec.eq_of_toNat_eq h0)
  have hm : (singleExp w).toNat ≠ 255 := fun h255 => hmax (BitVec.eq_of_toNat_eq h255)
  omega

/-- The class of a converted single: a denormal becomes normal and a signaling NaN quiet (R187 (f)). -/
def resultClass : FloatClass → FloatClass
  | .denormal => .normal
  | .signalingNaN => .quietNaN
  | c => c

/-- R179, R180: a fraction whose top bit is set makes a quiet NaN. -/
theorem doubleClass_quiet (s : BitVec 1) (f : BitVec 23) (hquiet : f.getLsbD 22 = true) :
    doubleClass (packDouble s 0x7FF (widenFrac f)) = .quietNaN := by
  have htop : (widenFrac f).getLsbD 51 = true := by simpa [widenFrac] using hquiet
  rw [doubleClass_eq_iff, doubleExp_packDouble, doubleFrac_packDouble]
  refine ⟨rfl, fun hzero => ?_, htop⟩
  rw [hzero] at htop
  exact absurd htop (by decide)

theorem doubleClass_cvtS2D (w : Single) : doubleClass (cvtS2D w false).d = resultClass (singleClass w) := by
  have hfields := singleClass_hasFields w
  cases hc : singleClass w <;> rw [hc] at hfields
  case denormal =>
    obtain ⟨-, hfrac⟩ := hfields
    have hp := topBit_le _ hfrac
    have hexp := toNat_doubleExp_of_denormal w hc
    exact doubleClass_of_exp _ (by omega) (by omega)
  case normal =>
    obtain ⟨hlow, hhigh⟩ := toNat_singleExp_of_normal w hc
    have hexp := toNat_doubleExp_of_normal w false hc
    exact doubleClass_of_exp _ (by omega) (by omega)
  case quietNaN =>
    obtain ⟨-, -, hquiet⟩ := hfields
    rw [cvtS2D_eq, hc]
    exact doubleClass_quiet _ _ hquiet
  case signalingNaN =>
    rw [cvtS2D_eq, hc]
    exact doubleClass_quiet _ _ (by simp)
  case zero | infinity =>
    rw [cvtS2D_eq, hc, doubleClass_eq_iff, doubleExp_packDouble, doubleFrac_packDouble]
    exact ⟨rfl, rfl⟩

/-! ## Exactness (R175, R176, R187 (d)) -/

theorem withSign_mul (s : BitVec 1) (m k : Nat) : withSign s (m * k) = withSign s m * (k : Int) := by
  unfold withSign
  split <;> push_cast <;> ring

/-- R175: the value of a normal result, scaled by `2^29` in its fraction and `2^896` in its exponent. -/
theorem normal_value (f e : Nat) (he : 1 ≤ e) :
    (2 ^ 52 + f * 2 ^ 29) * 2 ^ (e + 896 - 1) = (2 ^ 23 + f) * 2 ^ (e - 1) * 2 ^ 925 := by
  have hexp : (2 : Nat) ^ 29 * 2 ^ (e + 896 - 1) = 2 ^ (e - 1) * 2 ^ 925 := by
    rw [← pow_add, ← pow_add, show 29 + (e + 896 - 1) = e - 1 + 925 by omega]
  calc (2 ^ 52 + f * 2 ^ 29) * 2 ^ (e + 896 - 1) = (2 ^ 23 + f) * (2 ^ 29 * 2 ^ (e + 896 - 1)) := by
        rw [← mul_assoc, add_mul (2 ^ 23) f, ← pow_add]
    _ = (2 ^ 23 + f) * 2 ^ (e - 1) * 2 ^ 925 := by rw [hexp, mul_assoc]

/-- R176: normalizing a denormal fraction keeps its value. -/
theorem denormal_value (f p : Nat) (hp : p ≤ 22) (hf : 2 ^ p ≤ f) :
    (2 ^ 52 + (f - 2 ^ p) * 2 ^ (52 - p)) * 2 ^ (p + 874 - 1) = f * 2 ^ 925 := by
  have hone : 2 ^ 52 = 2 ^ p * 2 ^ (52 - p) := by rw [← pow_add, Nat.add_sub_cancel' (by omega)]
  calc (2 ^ 52 + (f - 2 ^ p) * 2 ^ (52 - p)) * 2 ^ (p + 874 - 1)
      = (2 ^ p + (f - 2 ^ p)) * 2 ^ (52 - p) * 2 ^ (p + 874 - 1) := by rw [hone, ← add_mul]
    _ = f * (2 ^ (52 - p) * 2 ^ (p + 874 - 1)) := by rw [Nat.add_sub_cancel' hf, mul_assoc]
    _ = f * 2 ^ 925 := by rw [← pow_add, show 52 - p + (p + 874 - 1) = 925 by omega]

/-- R187 (d): the conversion of a finite single is exact, that of the others has no value. -/
theorem doubleUnits_cvtS2D (w : Single) :
    doubleUnits (cvtS2D w false).d = (singleUnits w).map (· * 2 ^ 925) := by
  cases hc : singleClass w <;>
    simp only [doubleUnits, doubleClass_cvtS2D, singleUnits, hc, resultClass, doubleSign_cvtS2D, Option.map_some,
      Option.map_none, zero_mul, Option.some.injEq]
  case denormal =>
    obtain ⟨-, hfrac⟩ := (singleClass_eq_iff w .denormal).mp hc
    rw [toNat_doubleExp_of_denormal w hc, toNat_doubleFrac_of_denormal w hc,
      denormal_value _ _ (topBit_le _ hfrac) (topBit_bounds _ hfrac).1, withSign_mul]
    norm_cast
  case normal =>
    obtain ⟨hlow, -⟩ := toNat_singleExp_of_normal w hc
    rw [toNat_doubleExp_of_normal w false hc, toNat_doubleFrac_of_normal w false hc, normal_value _ _ hlow, withSign_mul]
    norm_cast

/-- Settles O2: exponent and fraction of a normal result, its sign, and no signal. -/
theorem convertNormal : Obligations.ConvertNormal := by
  intro s e f daz hlow hhigh
  have hclass : singleClass (s ++ e ++ f) = .normal :=
    singleClass_append s e f .normal ⟨fun h => by simp [h] at hlow, fun h => by simp [h] at hhigh⟩
  have hexp := toNat_doubleExp_of_normal _ daz hclass
  have hfrac := toNat_doubleFrac_of_normal _ daz hclass
  rw [singleExp_append] at hexp
  rw [singleFrac_append] at hfrac
  refine ⟨doubleClass_of_exp _ (by omega) (by omega), ?_, hexp, by omega, by omega, hfrac, ?_, ?_⟩
  · rw [doubleSign_cvtS2D, singleSign_append]
  · simp [cvtS2D_eq, hclass]
  · simp [cvtS2D_eq, hclass]

/-- Settles O3: `p` is the top bit, which gives exponent and fraction, and the value is exact. -/
theorem convertDenormal : Obligations.ConvertDenormal := by
  intro s f p hlow hhigh
  have hf : f ≠ 0 := fun h => by simp [h] at hlow
  have htop : topBit f = p := (topBit_eq_iff f p hf).mpr ⟨hlow, hhigh⟩
  have hp : p ≤ 22 := htop ▸ topBit_le f hf
  have hclass : singleClass (s ++ 0#8 ++ f) = .denormal := singleClass_append s 0#8 f .denormal ⟨rfl, hf⟩
  have hexp := toNat_doubleExp_of_denormal _ hclass
  have hfrac := toNat_doubleFrac_of_denormal _ hclass
  rw [singleFrac_append, htop] at hexp hfrac
  refine ⟨?_, ?_, hexp, by omega, by omega, hfrac, ?_, ?_, ?_⟩
  · rw [doubleClass_cvtS2D, hclass, resultClass]
  · rw [doubleSign_cvtS2D, singleSign_append]
  · rw [doubleUnits_cvtS2D, singleUnits, hclass, singleSign_append, singleFrac_append, Option.map_some]
  · simp [cvtS2D_eq, hclass]
  · simp [cvtS2D_eq, hclass]

end Sys2Proof.Machine
end

section
/-!
PROOFS for spec/41_numerics.md R187: the laws of the conversion. Injectivity comes from a left inverse.
-/
namespace Sys2Proof.Machine

/-! ## Low bits -/

theorem extractLsb'_packDouble_low (s : BitVec 1) (e : BitVec 11) (f : BitVec 52) :
    (packDouble s e f).extractLsb' 0 29 = f.extractLsb' 0 29 :=
  BitVec.extractLsb'_append_eq_of_add_le (by decide)

theorem widenFrac_low (f : BitVec 23) : (widenFrac f).extractLsb' 0 29 = 0 := by
  rw [widenFrac_eq_append]
  exact BitVec.extractLsb'_append_eq_right

/-- The shift of R176 is by at least 30. -/
theorem normalizedFrac_low (f : BitVec 23) (hf : f ≠ 0) : (normalizedFrac f).extractLsb' 0 29 = 0 := by
  have hp := topBit_le f hf
  have hshift : (2 : Nat) ^ (52 - topBit f) = 2 ^ (23 - topBit f) * 2 ^ 29 := by
    rw [← pow_add, show 52 - topBit f = 23 - topBit f + 29 by omega]
  refine BitVec.eq_of_toNat_eq ?_
  rw [BitVec.extractLsb'_toNat, toNat_normalizedFrac f hf, hshift, ← mul_assoc, Nat.shiftRight_zero]
  exact Nat.mul_mod_left _ _

theorem cvtS2D_low (w : Single) : (cvtS2D w false).d.extractLsb' 0 29 = 0 := by
  rw [cvtS2D_eq, extractLsb'_packDouble_low]
  cases hc : singleClass w
  case zero | infinity => rfl
  case denormal => exact normalizedFrac_low _ ((singleClass_eq_iff w .denormal).mp hc).2
  case normal | quietNaN | signalingNaN => exact widenFrac_low _

/-! ## A left inverse -/

/-- The biased exponent of the single that an exponent field of a double comes from. -/
def narrowExp (e : BitVec 11) : BitVec 8 :=
  if e.toNat < 897 then 0 else if e.toNat = 2047 then 255 else BitVec.ofNat 8 (e.toNat - 896)

/-- The fraction of the single that exponent and fraction of a double come from: below 897 the exponent is that of a zero
or gives the top bit of a denormal (R176). -/
def narrowFrac (e : BitVec 11) (f : BitVec 52) : BitVec 23 :=
  if 874 ≤ e.toNat ∧ e.toNat < 897 then
    BitVec.ofNat 23 (2 ^ (e.toNat - 874) + f.toNat / 2 ^ (52 - (e.toNat - 874)))
  else f.extractLsb' 29 23

/-- The single a double was converted from. -/
def narrow (d : Double) : Single :=
  doubleSign d ++ narrowExp (doubleExp d) ++ narrowFrac (doubleExp d) (doubleFrac d)

theorem extractLsb'_widenFrac (f : BitVec 23) : (widenFrac f).extractLsb' 29 23 = f := by
  rw [widenFrac_eq_append]
  exact BitVec.extractLsb'_append_eq_left

theorem narrowExp_cvtS2D (w : Single) : narrowExp (doubleExp (cvtS2D w false).d) = singleExp w := by
  have hfields := singleClass_hasFields w
  cases hc : singleClass w <;> rw [hc] at hfields
  case denormal =>
    obtain ⟨hexp, hfrac⟩ := hfields
    have hp := topBit_le _ hfrac
    rw [narrowExp, toNat_doubleExp_of_denormal w hc, if_pos (by omega), hexp]
  case normal =>
    obtain ⟨hlow, hhigh⟩ := toNat_singleExp_of_normal w hc
    rw [narrowExp, toNat_doubleExp_of_normal w false hc, if_neg (by omega), if_neg (by omega), Nat.add_sub_cancel,
      BitVec.ofNat_toNat, BitVec.setWidth_eq]
  case zero | infinity | quietNaN | signalingNaN =>
    rw [cvtS2D_eq, doubleExp_packDouble, hc, hfields.1]
    rfl

theorem narrowFrac_cvtS2D (w : Single) (h : singleClass w ≠ .signalingNaN) :
    narrowFrac (doubleExp (cvtS2D w false).d) (doubleFrac (cvtS2D w false).d) = singleFrac w := by
  have hfields := singleClass_hasFields w
  cases hc : singleClass w <;> rw [hc] at hfields
  case denormal =>
    obtain ⟨-, hfrac⟩ := hfields
    have hp := topBit_le _ hfrac
    obtain ⟨hle, -⟩ := topBit_bounds _ hfrac
    rw [narrowFrac, toNat_doubleExp_of_denormal w hc, toNat_doubleFrac_of_denormal w hc, if_pos (by omega),
      Nat.add_sub_cancel, Nat.mul_div_cancel _ (by positivity), Nat.add_sub_cancel' hle, BitVec.ofNat_toNat,
      BitVec.setWidth_eq]
  case normal =>
    obtain ⟨hlow, -⟩ := toNat_singleExp_of_normal w hc
    rw [narrowFrac, toNat_doubleExp_of_normal w false hc, if_neg (by omega), cvtS2D_eq, hc, doubleFrac_packDouble]
    exact extractLsb'_widenFrac _
  case zero | infinity =>
    rw [cvtS2D_eq, doubleExp_packDouble, doubleFrac_packDouble, hc, hfields.2, narrowFrac, if_neg (by simp [resultExp])]
    exact BitVec.extractLsb'_zero
  case quietNaN =>
    rw [cvtS2D_eq, doubleExp_packDouble, doubleFrac_packDouble, hc, narrowFrac, if_neg (by simp [resultExp])]
    exact extractLsb'_widenFrac _
  case signalingNaN => exact absurd hc h

/-- R187 (c): but for signaling NaNs, the result determines its operand. -/
theorem narrow_cvtS2D (w : Single) (h : singleClass w ≠ .signalingNaN) : narrow (cvtS2D w false).d = w := by
  rw [narrow, doubleSign_cvtS2D, narrowExp_cvtS2D, narrowFrac_cvtS2D w h, append_singleFields]

/-! ## Signaling NaNs and their quieted forms -/

/-- R180: the top fraction bit of a single is bit 22. -/
theorem or_quietBit (w : Single) :
    w ||| 0x00400000 = singleSign w ++ singleExp w ++ (singleFrac w ||| 0x400000) := by
  have hbit : (0x00400000 : Single) = 0#9 ++ (0x400000 : BitVec 23) := rfl
  conv_lhs => rw [← append_singleFields w, hbit]
  rw [BitVec.or_append, BitVec.or_zero]

theorem singleClass_quieted (w : Single) (h : singleClass w = .signalingNaN) :
    singleClass (w ||| 0x00400000) = .quietNaN := by
  obtain ⟨hexp, -, -⟩ := (singleClass_eq_iff w .signalingNaN).mp h
  have htop : (singleFrac w ||| 0x400000).getLsbD 22 = true := by simp
  rw [or_quietBit]
  refine singleClass_append _ _ _ .quietNaN ⟨hexp, fun hzero => ?_, htop⟩
  rw [hzero] at htop
  exact absurd htop (by decide)

theorem cvtS2D_quieted (w : Single) (h : singleClass w = .signalingNaN) :
    (cvtS2D w false).d = (cvtS2D (w ||| 0x00400000) false).d := by
  rw [cvtS2D_eq, cvtS2D_eq, h, singleClass_quieted w h, or_quietBit, singleSign_append]
  simp only [resultExp, resultFrac, singleFrac_append]

/-! ## The laws -/

/-- R187 (e): exactness carries the order of the values over. -/
theorem cvtS2D_strictMono (w w' : Single) (u u' : Int) (hu : singleUnits w = some u) (hu' : singleUnits w' = some u')
    (hlt : u < u') :
    ∃ x x', doubleUnits (cvtS2D w false).d = some x ∧ doubleUnits (cvtS2D w' false).d = some x' ∧ x < x' := by
  refine ⟨u * 2 ^ 925, u' * 2 ^ 925, ?_, ?_, Int.mul_lt_mul_of_pos_right hlt (by positivity)⟩
  · rw [doubleUnits_cvtS2D, hu, Option.map_some]
  · rw [doubleUnits_cvtS2D, hu', Option.map_some]

/-- R187, last sentence: DAZ matters to denormals alone. -/
theorem cvtS2D_daz_of_ne_denormal (w : Single) (h : singleClass w ≠ .denormal) : cvtS2D w true = cvtS2D w false := by
  cases hc : singleClass w
  case denormal => exact absurd hc h
  case zero | normal | infinity | quietNaN | signalingNaN => simp [cvtS2D_eq, hc, resultExp, resultFrac]

/-- Settles O5: the clauses in their order; injectivity by the left inverse, monotonicity by exactness. -/
theorem conversionLaws : Obligations.ConversionLaws := by
  refine ⟨fun w => doubleSign_cvtS2D w false, cvtS2D_low, fun w w' h h' heq => ?_,
    fun w h => ⟨singleClass_quieted w h, cvtS2D_quieted w h⟩, fun w u hu => ?_, fun w h => ?_, cvtS2D_strictMono,
    fun w => ?_, fun w => ⟨fun h => ?_, cvtS2D_daz_of_ne_denormal w⟩⟩
  · rw [← narrow_cvtS2D w h, heq, narrow_cvtS2D w' h']
  · rw [doubleUnits_cvtS2D, hu, Option.map_some]
  · rw [doubleClass_cvtS2D, h]
    rfl
  · rw [doubleClass_cvtS2D]
    cases singleClass w <;> simp [resultClass]
  · rw [cvtS2D_denormal_daz w h]

end Sys2Proof.Machine
end

section
/-!
PROOFS for spec/41_numerics.md R181 to R184, R209, R213: the flags and the completion of an instruction past the read of
its source, with and without `sae`.
-/
namespace Sys2Proof.Machine

/-! ## What is signalled (R181, R182) -/

/-- The state an instruction past the read of its source leaves has the signals recorded in MXCSR, whether it completes or
faults. -/
theorem mxcsr_of_exec (i : Instr) (s t : State) (src : SrcValue) (hwf : i.wf = true) (hv : (operationOf i).vvvv = 15)
    (hp : s.premises (operationOf i).form) (hs : s.readSource (operationOf i) = .ok src)
    (h : exec i s = .next t ∨ ∃ e, exec i s = .fault (.raised e t)) :
    t.mxcsr = recordSignals (s.signals (operationOf i) src) s.mxcsr := by
  rw [exec_ready i s src hv (reserved_of_wf i hwf hv) hp hs] at h
  by_cases hmask : allMasked (s.signals (operationOf i) src) s.mxcsr
  · rw [finish_masked s _ src hmask] at h
    rcases h with h | ⟨e, h⟩ <;> cases h
    rfl
  · rw [finish_unmasked s _ src hmask] at h
    rcases h with h | ⟨e, h⟩ <;> cases h
    rfl

/-- R182: Invalid is signalled by an active signaling NaN, without `sae`. -/
theorem signals_ie_iff (s : State) (c : Operation) (src : SrcValue) :
    (s.signals c src).ie = true ↔
      c.sae = false ∧ ∃ j < c.form.kl, s.maskBit c.aaa j = true ∧ singleClass (srcLane src j) = .signalingNaN := by
  rw [signals_eq]
  cases c.sae <;> simp [elementSignals, cvtS2D_ie]

/-- R182: Denormal is signalled by an active denormal while DAZ = 0, without `sae`. -/
theorem signals_de_iff (s : State) (c : Operation) (src : SrcValue) :
    (s.signals c src).de = true ↔
      c.sae = false ∧ s.daz = false ∧
        ∃ j < c.form.kl, s.maskBit c.aaa j = true ∧ singleClass (srcLane src j) = .denormal := by
  rw [signals_eq]
  cases c.sae <;> cases hdaz : s.daz <;> simp [elementSignals, cvtS2D_de]

theorem mxcsrBit_recordSignals_ie (sig : Signals) (m : BitVec 32) :
    mxcsrBit (recordSignals sig m) .ie = true ↔ mxcsrBit m .ie = true ∨ sig.ie = true := by
  simp only [mxcsrBit, MxcsrBit.pos, getLsbD_recordSignals]
  simp

theorem mxcsrBit_recordSignals_de (sig : Signals) (m : BitVec 32) :
    mxcsrBit (recordSignals sig m) .de = true ↔ mxcsrBit m .de = true ∨ sig.de = true := by
  simp only [mxcsrBit, MxcsrBit.pos, getLsbD_recordSignals]
  simp

/-- Settles O20: MXCSR is the old one with the signals recorded, on completion and on fault. -/
theorem flagLaw : Obligations.FlagLaw := by
  intro i s t src hwf hv hp hs h
  rw [mxcsr_of_exec i s t src hwf hv hp hs h]
  refine ⟨?_, ?_, getLsbD_recordSignals_of_two_le _ _⟩
  · rw [mxcsrBit_recordSignals_ie, signals_ie_iff]
  · rw [mxcsrBit_recordSignals_de, signals_de_iff]

/-! ## Fault or completion (R184, R209) -/

/-- Settles O21: the end of the shared step, its signals in the words of `elementSignals`. -/
theorem unmaskedExceptionDecidesCompletion : Obligations.UnmaskedExceptionDecidesCompletion := by
  intro i s src sig hwf hv hp hs hsig
  rw [← signals_eq] at hsig
  subst hsig
  rw [exec_ready i s src hv (reserved_of_wf i hwf hv) hp hs]
  refine ⟨finish_unmasked s _ src, fun hmask => ⟨s.destValue (operationOf i) src, ?_, lanesAre_destValue s _ src⟩⟩
  rw [finish_masked s _ src hmask, operationOf_len]

/-- R125, R123: EVEX.512 admits `sae`, and a writemask where there is zeroing. -/
theorem wf_evex512_sae (p : Prefixes) (aaa : KReg) (z : Bool) (dst n : VReg) (hz : ¬ (z = true ∧ aaa = 0)) :
    (Instr.vcvtps2pd512Evex p 15 aaa z true dst (.reg n)).wf = true := by
  cases z
  · rfl
  · simpa [Instr.wf, Rm.wf, evexMaskWf] using hz

/-- Settles O13: with `sae` nothing is signalled, so the instruction completes whatever is masked. -/
theorem saeSuppressesExceptions : Obligations.SaeSuppressesExceptions := by
  intro p aaa z dst n s hz hp
  obtain ⟨-, hcompletes⟩ := unmaskedExceptionDecidesCompletion (.vcvtps2pd512Evex p 15 aaa z true dst (.reg n)) s
    (s.regSource .evex512 n) ⟨false, false⟩ (wf_evex512_sae p aaa z dst n hz) rfl hp rfl rfl
  obtain ⟨x, hnext, hlanes⟩ := hcompletes (allMasked_nothing _)
  exact ⟨x, hnext, lanesAre_congr Form.evex512.kl _ _ _ _ _ _ _ (srcLane_regSource s .evex512 n) hlanes,
    recordSignals_nothing _⟩

end Sys2Proof.Machine
end

section
/-!
PROOFS for spec/41_numerics.md R173, R183, R185, R186 with spec/10_state.md R28: what an instruction that completes does
not depend on.
-/
namespace Sys2Proof.Machine

/-! ## Lane by lane (R186) -/

/-- The lane an instruction that completes leaves: converted, zeroed or kept (R140 line 9). -/
theorem lane_of_exec_next (i : Instr) (s t : State) (src : SrcValue) (j : Nat) (hj : j < (operationOf i).form.kl)
    (hs : s.readSource (operationOf i) = .ok src) (h : exec i s = .next t) :
    lane (t.vreg (operationOf i).dst) j =
      if s.maskBit (operationOf i).aaa j then (cvtS2D (srcLane src j) s.daz).d
      else if (operationOf i).z then 0 else lane (s.vreg (operationOf i).dst) j := by
  rw [exec_eq] at h
  obtain ⟨-, -, -, src', hs', -, rfl⟩ := convertPacked_next _ _ _ h
  obtain rfl : src = src' := by simpa [hs] using hs'
  rw [vreg_completed_same]
  exact lanesAre_destValue s (operationOf i) src j hj

/-- Settles O16: the lane that is left is the same function of the named inputs in both runs. -/
theorem laneDependsOnItsOwnInputs : Obligations.LaneDependsOnItsOwnInputs := by
  intro i s s' t t' src src' j hj hs hs' hsrc hdaz hmask hold h h'
  rw [lane_of_exec_next i s t src j hj hs h, lane_of_exec_next i s' t' src' j hj hs' h', hsrc, hdaz, hmask, hold]

/-! ## States in which an operation has the same inputs -/

/-- Two states give an operation the same inputs (R183, R185): the same active source elements, writemask and old
destination, the same class check, and the same DAZ, IM and DM. -/
structure SameInputs (c : Operation) (s s' : State) (src src' : SrcValue) : Prop where
  read : s.readSource c = .ok src
  read' : s'.readSource c = .ok src'
  elements : ∀ j < c.form.kl, s.maskBit c.aaa j = true → srcLane src j = srcLane src' j
  mask : s.maskBit c.aaa = s'.maskBit c.aaa
  old : s.vreg c.dst = s'.vreg c.dst
  classCheck : s.classCheck c.form = s'.classCheck c.form
  daz : s.daz = s'.daz
  im : mxcsrBit s.mxcsr .im = mxcsrBit s'.mxcsr .im
  dm : mxcsrBit s.mxcsr .dm = mxcsrBit s'.mxcsr .dm

/-- R183: an element of a class is active in both or in neither. -/
theorem SameInputs.exists_active_iff {c : Operation} {s s' : State} {src src' : SrcValue}
    (h : SameInputs c s s' src src') (k : FloatClass) :
    (∃ j < c.form.kl, s.maskBit c.aaa j = true ∧ singleClass (srcLane src j) = k) ↔
      ∃ j < c.form.kl, s'.maskBit c.aaa j = true ∧ singleClass (srcLane src' j) = k := by
  rw [← h.mask]
  refine exists_congr fun j => and_congr_right fun hj => and_congr_right fun hon => ?_
  rw [h.elements j hj hon]

theorem SameInputs.signals {c : Operation} {s s' : State} {src src' : SrcValue} (h : SameInputs c s s' src src') :
    s.signals c src = s'.signals c src' := by
  have hie : (s.signals c src).ie = (s'.signals c src').ie := by
    rw [Bool.eq_iff_iff, signals_ie_iff, signals_ie_iff, h.exists_active_iff]
  have hde : (s.signals c src).de = (s'.signals c src').de := by
    rw [Bool.eq_iff_iff, signals_de_iff, signals_de_iff, h.exists_active_iff, h.daz]
  exact congrArg₂ Signals.mk hie hde

theorem SameInputs.allMasked_iff {c : Operation} {s s' : State} {src src' : SrcValue} (h : SameInputs c s s' src src')
    (sig : Signals) : allMasked sig s.mxcsr ↔ allMasked sig s'.mxcsr := by
  simp only [allMasked, h.im, h.dm]

theorem SameInputs.destLane {c : Operation} {s s' : State} {src src' : SrcValue} (h : SameInputs c s s' src src')
    (j : Nat) (hj : j < c.form.kl) : s.destLane c src j = s'.destLane c src' j := by
  simp only [State.destLane, active_eq_maskBit, State.convertLane, ← h.mask, ← h.old, ← h.daz]
  cases hon : s.maskBit c.aaa j
  · rfl
  · rw [h.elements j hj hon]

theorem SameInputs.destValue {c : Operation} {s s' : State} {src src' : SrcValue} (h : SameInputs c s s' src src') :
    s.destValue c src = s'.destValue c src' := by
  have hbase : s.destBase c = s'.destBase c := by simp only [State.destBase, h.old]
  rw [State.destValue, State.destValue, hbase]
  exact List.foldl_ext _ _ _ fun x j hj => by rw [h.destLane j (List.mem_range.mp hj)]

/-- With the same inputs an instruction that completes in one state completes in the other, with the same destination
value and the same signals. -/
theorem SameInputs.exec_next {i : Instr} {s s' t : State} {src src' : SrcValue}
    (h : SameInputs (operationOf i) s s' src src') (hnext : exec i s = .next t) :
    ∃ x sig, t = s.completed (operationOf i).dst x sig i.length ∧
      exec i s' = .next (s'.completed (operationOf i).dst x sig i.length) := by
  rw [exec_eq] at hnext ⊢
  obtain ⟨hv, hr, hc, src₀, hread, hmask, rfl⟩ := convertPacked_next _ _ _ hnext
  obtain rfl : src = src₀ := by simpa [h.read] using hread
  rw [h.allMasked_iff, h.signals] at hmask
  refine ⟨s.destValue (operationOf i) src, s.signals (operationOf i) src, by rw [operationOf_len], ?_⟩
  rw [convertPacked_ready _ s' src' hv hr (h.classCheck ▸ hc) h.read', finish_masked s' _ src' hmask, h.signals,
    h.destValue, operationOf_len]

/-! ## Source bits that are not used (R183, R28) -/

theorem classCheck_setVreg (s : State) (f : Form) (n : VReg) (y : ZmmValue) :
    (s.setVreg n y).classCheck f = s.classCheck f := by
  cases f <;> rfl

theorem readSource_reg (s : State) (c : Operation) (n : VReg) (hsrc : c.src = .reg n) :
    s.readSource c = .ok (s.regSource c.form n) := by
  simp only [State.readSource, hsrc]

/-- A register source with the bits of inactive elements and above the elements changed. -/
theorem sameInputs_setVreg (s : State) (c : Operation) (n : VReg) (y : ZmmValue) (hsrc : c.src = .reg n)
    (hn : n ≠ c.dst) (hy : ∀ j < c.form.kl, s.maskBit c.aaa j = true → y.extractLsb' (32 * j) 32 = s.regWord n j) :
    SameInputs c s (s.setVreg n y) (s.regSource c.form n) ((s.setVreg n y).regSource c.form n) where
  read := readSource_reg s c n hsrc
  read' := readSource_reg _ c n hsrc
  elements j hj hon := by
    rw [srcLane_regSource s c.form n j hj, srcLane_regSource _ c.form n j hj, ← hy j hj hon, State.regWord,
      vreg_setVreg_same]
  mask := rfl
  old := (vreg_setVreg_other s n c.dst y hn.symm).symm
  classCheck := (classCheck_setVreg s c.form n y).symm
  daz := rfl
  im := rfl
  dm := rfl

/-- Writing another register commutes with completing. -/
theorem completed_setVreg (s : State) (n dst : VReg) (y x : ZmmValue) (sig : Signals) (len : Nat) (hn : n ≠ dst) :
    (s.setVreg n y).completed dst x sig len = (s.completed dst x sig len).setVreg n y := by
  have hne : n.toNat ≠ dst.toNat := fun h => hn (BitVec.eq_of_toNat_eq h)
  simp only [State.completed, State.setVreg, Vector.set_comm _ _ hne]

/-- Settles O15: the changed register gives the same inputs, and is not the one written. -/
theorem unusedSourceBitsIgnored : Obligations.UnusedSourceBitsIgnored := by
  intro i n s t y hsrc hn hy hnext
  obtain ⟨x, sig, rfl, hnext'⟩ := (sameInputs_setVreg s _ n y hsrc hn hy).exec_next hnext
  rw [hnext', completed_setVreg s n _ y x sig _ hn]

/-! ## MXCSR bits that are not used (R173, R185) -/

theorem readSource_setMxcsr (s : State) (c : Operation) (m : BitVec 32) :
    (s.setMxcsr m).readSource c = s.readSource c := by
  unfold State.readSource
  cases c.src <;> rfl

/-- MXCSR with other bits than DAZ, IM and DM changed. -/
theorem sameInputs_setMxcsr (s : State) (c : Operation) (m : BitVec 32) (src : SrcValue)
    (hdaz : mxcsrBit m .daz = mxcsrBit s.mxcsr .daz) (him : mxcsrBit m .im = mxcsrBit s.mxcsr .im)
    (hdm : mxcsrBit m .dm = mxcsrBit s.mxcsr .dm) (hread : s.readSource c = .ok src) :
    SameInputs c s (s.setMxcsr m) src src where
  read := hread
  read' := by rw [readSource_setMxcsr, hread]
  elements _ _ _ := rfl
  mask := rfl
  old := rfl
  classCheck := (classCheck_setMxcsr s c.form m).symm
  daz := by simp only [State.daz, setMxcsr_proc, setMxcsr_mxcsr, hdaz]
  im := him.symm
  dm := hdm.symm

@[simp] theorem mxcsrRC_recordSignals (sig : Signals) (m : BitVec 32) : mxcsrRC (recordSignals sig m) = mxcsrRC m := by
  refine BitVec.eq_of_getLsbD_eq fun k hk => ?_
  simp only [mxcsrRC, BitVec.getLsbD_extractLsb', getLsbD_recordSignals_of_two_le sig m (13 + k) (by omega)]

/-- Settles O17: the changed MXCSR gives the same inputs, and recording signals leaves RC and FTZ. -/
theorem roundingAndFtzIrrelevant : Obligations.RoundingAndFtzIrrelevant := by
  intro i s t m hdaz him hdm hnext
  obtain ⟨-, -, -, src, hread, -⟩ := convertPacked_next _ _ _ (exec_eq i s ▸ hnext)
  obtain ⟨x, sig, rfl, hnext'⟩ := (sameInputs_setMxcsr s _ m src hdaz him hdm hread).exec_next hnext
  exact ⟨recordSignals sig m, hnext', mxcsrRC_recordSignals sig m,
    getLsbD_recordSignals_of_two_le sig m _ (by decide)⟩

end Sys2Proof.Machine
end

section
/-!
PROOFS for spec/60_exceptions.md R201 to R205, R208, R212, R214, R215, R217, R221: what stops an instruction before its
operand is read, a `#PF` of the operand, the state of a fault, and what a retry and the privilege level leave.
-/
namespace Sys2Proof.Machine

/-! ## Stopped before the operand is read (R201, R203 to R205, R212) -/

/-- Settles O22: the fields of a VEX and of an EVEX instruction hold its stored `vvvv`. -/
theorem wrongVvvvRaisesUD : Obligations.WrongVvvvRaisesUD := by
  rintro f p vvvv aaa z b dst src i s (hi | hi) hv
  · exact exec_of_wrong_vvvv i s (by rwa [operationOf_of_isVexInstr f p vvvv dst src i hi])
  · exact exec_of_wrong_vvvv i s (by rwa [operationOf_of_isEvexInstr f p vvvv aaa z b dst src i hi])

/-- Past decoding, what the class check raises is the instruction's fault, with the state unchanged. -/
theorem exec_of_classCheck (i : Instr) (s : State) (e : Exception) (hwf : i.wf = true) (hv : (operationOf i).vvvv = 15)
    (hclass : s.classCheck (operationOf i).form = some e) : exec i s = .fault (.raised e s) := by
  simp [exec_eq, convertPacked, raise, hv, reserved_of_wf i hwf hv, hclass]

/-- `#UD` of the class check does not wait on the stored `vvvv`, which raises `#UD` too. -/
theorem exec_of_classCheck_invalidOpcode (i : Instr) (s : State) (hwf : i.wf = true)
    (hclass : s.classCheck (operationOf i).form = some .invalidOpcode) :
    exec i s = .fault (.raised .invalidOpcode s) := by
  by_cases hv : (operationOf i).vvvv = 15
  · exact exec_of_classCheck i s _ hwf hv hclass
  · exact exec_of_wrong_vvvv i s hv

theorem classCheck_invalidOpcode_iff (s : State) (f : Form) :
    s.classCheck f = some .invalidOpcode ↔ s.featuresPresent f = false ∨ s.stateForbids f = true := by
  unfold State.classCheck
  cases s.featuresPresent f <;> cases s.stateForbids f <;> cases s.cr0TS <;> simp

theorem classCheck_deviceNotAvailable_iff (s : State) (f : Form) :
    s.classCheck f = some .deviceNotAvailable ↔
      s.featuresPresent f = true ∧ s.stateForbids f = false ∧ s.cr0TS = true := by
  unfold State.classCheck
  cases s.featuresPresent f <;> cases s.stateForbids f <;> cases s.cr0TS <;> simp

theorem featuresPresent_eq_false_iff (s : State) (f : Form) :
    s.featuresPresent f = false ↔ ∃ x ∈ f.features, hasFeature s.proc.features x = false := by
  simp [State.featuresPresent]

/-- Settles O23: a missing feature fails the class check. -/
theorem missingFeatureRaisesUD : Obligations.MissingFeatureRaisesUD := by
  intro i s hwf hmissing
  have habsent : s.featuresPresent (operationOf i).form = false := (featuresPresent_eq_false_iff s _).mpr hmissing
  exact exec_of_classCheck_invalidOpcode i s hwf ((classCheck_invalidOpcode_iff s _).mpr (.inl habsent))

/-- The rows of R204: LEGACY, every other form, and EVEX beyond that. -/
theorem stateForbids_iff (s : State) (f : Form) :
    s.stateForbids f = true ↔
      f = .legacy ∧ (s.cr0EM = true ∨ s.osfxsr = false) ∨
      f ≠ .legacy ∧ (s.osxsave = false ∨ s.xcr0Avx ≠ 3 ∨ s.mode = .realAddress ∨ s.mode = .virtual8086) ∨
      f.isEvex = true ∧ s.xcr0Avx512 ≠ 7 := by
  cases f
  case legacy => simp [State.stateForbids, Form.isEvex]
  case vex128 | vex256 => simp [State.stateForbids, Form.isEvex, or_assoc]
  case evex128 | evex256 | evex512 =>
    simp [State.stateForbids, Form.isEvex]
    tauto

/-- Settles O24: a row of R204 fails the class check. -/
theorem disabledStateRaisesUD : Obligations.DisabledStateRaisesUD := by
  intro i s hwf hdisabled
  have hforbids : s.stateForbids (operationOf i).form = true := (stateForbids_iff s _).mpr hdisabled
  exact exec_of_classCheck_invalidOpcode i s hwf ((classCheck_invalidOpcode_iff s _).mpr (.inr hforbids))

/-- Of CR0 the rows of R204 read EM alone. -/
theorem stateForbids_cr0 (s : State) (f : Form) (x : Quad) (hem : x.getLsbD 2 = s.cr0.getLsbD 2) :
    State.stateForbids { s with cr0 := x } f = s.stateForbids f := by
  cases f
  case legacy => simp only [State.stateForbids, State.cr0EM, State.osfxsr, hem]
  all_goals rfl

/-- R205: with TS set, a form whose premises were met gets `#NM` from the class check. -/
theorem classCheck_of_taskSwitched (s : State) (f : Form) (hp : s.premises f) :
    State.classCheck { s with cr0 := s.cr0 ||| 8 } f = some .deviceNotAvailable := by
  obtain ⟨hpresent, hforbids, -⟩ := (classCheck_none_iff s f).mp (classCheck_of_premises s f hp)
  refine (classCheck_deviceNotAvailable_iff _ f).mpr ⟨hpresent, ?_, ?_⟩
  · rw [stateForbids_cr0 s f _ (by simp), hforbids]
  · simp [State.cr0TS]

/-- Settles O25: setting TS leaves the class check `#NM` alone to raise, before the operand is read. -/
theorem taskSwitchedRaisesNM : Obligations.TaskSwitchedRaisesNM :=
  fun i s hwf hv hp => exec_of_classCheck i _ _ hwf hv (classCheck_of_taskSwitched s _ hp)

/-! ## Faults of the memory source (R208, R212) -/

theorem premises_setMxcsr (s : State) (f : Form) (x : BitVec 32) : (s.setMxcsr x).premises f ↔ s.premises f := Iff.rfl

theorem linearAddress_setMxcsr (s : State) (c : Operation) (m : MemForm) (x : BitVec 32) :
    (s.setMxcsr x).linearAddress c m = s.linearAddress c m := rfl

/-- Settles O26: neither the checks, nor the address, nor the data read depends on MXCSR. -/
theorem memoryFaultBeforeNumericFault : Obligations.MemoryFaultBeforeNumericFault := by
  intro i m s x e hwf hv hp hsrc hread
  refine exec_of_memRead_fault i m (s.setMxcsr x) e hwf hv ((premises_setMxcsr s _ x).mpr hp) hsrc ?_
  rw [memRead_setMxcsr, linearAddress_setMxcsr, hread]

theorem mem_unreadable_iff (s : State) (ea a : Quad) (n : Nat) :
    a ∈ s.unreadable ea n ↔ ∃ k < n, s.readByte (ea + BitVec.ofNat 64 k) = none ∧ a = ea + BitVec.ofNat 64 k := by
  simp only [State.unreadable, operandBytes, List.mem_filter, List.mem_map, List.mem_range, Option.isNone_iff_eq_none]
  constructor
  · rintro ⟨⟨k, hk, rfl⟩, hnone⟩
    exact ⟨k, hk, hnone, rfl⟩
  · rintro ⟨k, hk, hnone, rfl⟩
    exact ⟨⟨k, hk, rfl⟩, hnone⟩

/-- The `#PF` of a list of unreadable bytes reports one of them, whichever the free value picks (R208). -/
theorem pageFaultAt_mem (s : State) (ea : Quad) (n : Nat) (bad : List Quad) (hbad : bad ≠ []) :
    ∃ a ∈ bad, s.pageFaultAt ea n bad = .pageFault (s.pageFaultCode a) a := by
  have hlt : Config.pageFaultPick s.rip ea n % bad.length < bad.length :=
    Nat.mod_lt _ (List.length_pos_iff.mpr hbad)
  refine ⟨_, List.getElem_mem hlt, ?_⟩
  rw [State.pageFaultAt, List.getD_eq_getElem _ _ hlt]

/-- An operand with an unreadable byte and no `#AC` leaves `#PF` alone. -/
theorem protection_of_unreadable (s : State) (ea : Quad) (n : Nat) (hbad : s.unreadable ea n ≠ [])
    (hmis : s.misaligned ea n = false) :
    ∃ a ∈ s.unreadable ea n, s.protection ea n = some (.pageFault (s.pageFaultCode a) a) := by
  obtain ⟨a, ha, hfault⟩ := pageFaultAt_mem s ea n _ hbad
  refine ⟨a, ha, ?_⟩
  rw [← hfault, State.protection, hmis]
  cases hlist : s.unreadable ea n with
  | nil => exact absurd hlist hbad
  | cons b bs => rfl

theorem misaligned_of_not_alignmentChecking (s : State) (ea : Quad) (n : Nat) (h : s.alignmentChecking = false) :
    s.misaligned ea n = false := by
  simp [State.misaligned, h]

/-- Settles O28: without alignment checking the data read has `#PF` alone to raise, at an unreadable byte. -/
theorem unreadableOperandPageFaults : Obligations.UnreadableOperandPageFaults := by
  rintro i m s _ hwf hv hp hsrc rfl hcheck hclear ⟨k, hk, hnone⟩
  have hbad : s.unreadable (s.linearAddress (operationOf i) m) (operationOf i).memBytes ≠ [] :=
    List.ne_nil_of_mem ((mem_unreadable_iff s _ _ _).mpr ⟨k, hk, hnone, rfl⟩)
  obtain ⟨a, ha, hprot⟩ := protection_of_unreadable s _ _ hbad (misaligned_of_not_alignmentChecking s _ _ hcheck)
  obtain ⟨j, hj, hunreadable, rfl⟩ := (mem_unreadable_iff s _ _ _).mp ha
  exact ⟨j, s.pageFaultCode _, hj, hunreadable, rfl, rfl,
    exec_of_memRead_fault i m s _ hwf hv hp hsrc (memRead_of_protection s _ _ _ _ hclear hprot)⟩

/-! ## The state of a fault (R214, R215) -/

/-- An instruction that faults leaves the state as it was, or the fault is numeric and its signals are recorded. -/
theorem exec_fault_cases (i : Instr) (s t : State) (e : Exception) (h : exec i s = .fault (.raised e t)) :
    t = s ∨ e = s.simdException ∧ ∃ sig, t = s.setMxcsr (recordSignals sig s.mxcsr) := by
  rw [exec_eq] at h
  rcases convertPacked_fault _ _ _ _ h with ⟨rfl, -⟩ | ⟨src, -, -, he, ht⟩
  · exact .inl rfl
  · exact .inr ⟨he, _, ht⟩

theorem step_fault_cases (s t : State) (e : Exception) (h : step s = .fault (.raised e t)) :
    t = s ∨ e = s.simdException ∧ ∃ sig, t = s.setMxcsr (recordSignals sig s.mxcsr) := by
  rcases step_fault s t e h with ⟨-, -, rfl⟩ | ⟨i, -, hexec⟩
  · exact .inl rfl
  · exact exec_fault_cases i s t e hexec

/-- R209: the numeric fault is `#XM` or `#UD`. -/
theorem simdException_cases (s : State) :
    s.simdException = .simdFloatingPoint ∨ s.simdException = .invalidOpcode := by
  unfold State.simdException
  cases s.osxmmexcpt <;> simp

theorem simdException_of_osxmmexcpt (s : State) (h : s.osxmmexcpt = true) : s.simdException = .simdFloatingPoint :=
  if_pos h

/-- Settles O35: a fault that changes the state records signals and is numeric, which both excluded cases rule out. -/
theorem faultsArePrecise : Obligations.FaultsArePrecise := by
  intro s t e h
  rcases step_fault_cases s t e h with rfl | ⟨rfl, sig, rfl⟩
  · exact ⟨rfl, rfl, fun _ _ => rfl, fun _ _ => rfl, fun _ _ => rfl⟩
  · refine ⟨rfl, rfl, getLsbD_recordSignals_of_two_le sig s.mxcsr, fun hxm hud => ?_, fun hos hud => ?_⟩
    · exact absurd (simdException_cases s) (not_or.mpr ⟨hxm, hud⟩)
    · rw [simdException_of_osxmmexcpt s hos] at hud
      cases hud

/-! ## The retry after masking (R217) -/

/-- An operation that does not come to the read of its source ends in `#UD`, in `#NM`, or in a refusal. -/
theorem convertPacked_of_not_passesChecks (c : Operation) (s : State) (h : ¬ s.passesChecks c) :
    (∃ e, (e = .invalidOpcode ∨ e = .deviceNotAvailable) ∧ convertPacked c s = .fault (.raised e s)) ∨
      ∃ r, convertPacked c s = .refused r := by
  unfold convertPacked raise
  by_cases hv : c.vvvv = 15
  · rw [if_neg (not_not.mpr hv)]
    cases hr : c.reserved with
    | some r => exact .inr ⟨_, rfl⟩
    | none =>
      cases hc : s.classCheck c.form with
      | some e => exact .inl ⟨e, classCheck_some s _ e hc, rfl⟩
      | none => exact absurd ⟨hv, hr, hc⟩ h
  · rw [if_pos hv]
    exact .inl ⟨_, .inl rfl, rfl⟩

/-- `#XM` comes from the elements of the source alone (R212, last group). -/
theorem passesChecks_of_simdFloatingPoint (c : Operation) (s t : State)
    (h : convertPacked c s = .fault (.raised .simdFloatingPoint t)) : s.passesChecks c := by
  by_contra hstop
  rcases convertPacked_of_not_passesChecks c s hstop with ⟨e, he, hfault⟩ | ⟨r, hrefused⟩
  · rw [hfault] at h
    cases h
    simp at he
  · simp [hrefused] at h

theorem passesChecks_setMxcsr (s : State) (c : Operation) (m : BitVec 32) :
    (s.setMxcsr m).passesChecks c ↔ s.passesChecks c := by
  simp only [State.passesChecks, classCheck_setMxcsr]

theorem daz_setMxcsr (s : State) (m : BitVec 32) (hdaz : mxcsrBit m .daz = mxcsrBit s.mxcsr .daz) :
    (s.setMxcsr m).daz = s.daz := by
  simp only [State.daz, setMxcsr_proc, setMxcsr_mxcsr, hdaz]

/-- Of MXCSR the signals depend on DAZ alone. -/
theorem signals_setMxcsr (s : State) (c : Operation) (src : SrcValue) (m : BitVec 32)
    (hdaz : mxcsrBit m .daz = mxcsrBit s.mxcsr .daz) : (s.setMxcsr m).signals c src = s.signals c src := by
  rw [signals_eq, signals_eq, daz_setMxcsr s m hdaz]
  rfl

/-- Of MXCSR the destination depends on DAZ alone (R185). -/
theorem destValue_setMxcsr (s : State) (c : Operation) (src : SrcValue) (m : BitVec 32)
    (hdaz : mxcsrBit m .daz = mxcsrBit s.mxcsr .daz) : (s.setMxcsr m).destValue c src = s.destValue c src := by
  have hlane : (s.setMxcsr m).destLane c src = s.destLane c src := by
    funext j
    simp only [State.destLane, State.convertLane, daz_setMxcsr s m hdaz]
    rfl
  simp only [State.destValue, hlane]
  rfl

/-- `180H` is IM and DM (R33). -/
theorem allMasked_or_masks (sig : Signals) (m : BitVec 32) : allMasked sig (m ||| 0x180) := by
  simp [allMasked, mxcsrBit, MxcsrBit.pos]

theorem mxcsrBit_daz_or_masks (m : BitVec 32) : mxcsrBit (m ||| 0x180) .daz = mxcsrBit m .daz := by
  simp [mxcsrBit, MxcsrBit.pos]

/-- The flag law is one OR (R182). -/
theorem recordSignals_eq_or (sig : Signals) (m : BitVec 32) : recordSignals sig m = m ||| recordSignals sig 0 := by
  simp [recordSignals, BitVec.or_assoc]

/-- Signals recorded before other bits are set, and again after it, are recorded once. -/
theorem recordSignals_or_recordSignals (sig : Signals) (m x : BitVec 32) :
    recordSignals sig (recordSignals sig m ||| x) = recordSignals sig (m ||| x) := by
  rw [recordSignals_eq_or sig m, recordSignals_eq_or, recordSignals_eq_or sig (m ||| x)]
  generalize recordSignals sig 0 = r
  calc m ||| r ||| x ||| r = m ||| x ||| r ||| r := by rw [BitVec.or_assoc m, BitVec.or_comm r, ← BitVec.or_assoc]
    _ = m ||| x ||| r := by rw [BitVec.or_assoc (m ||| x), BitVec.or_self]

/-- With both exceptions masked an operation past its checks completes; of the other bits of MXCSR only DAZ matters. -/
theorem convertPacked_or_masks (s : State) (c : Operation) (src : SrcValue) (m : BitVec 32)
    (hchecks : s.passesChecks c) (hread : s.readSource c = .ok src)
    (hdaz : mxcsrBit m .daz = mxcsrBit s.mxcsr .daz) :
    convertPacked c (s.setMxcsr (m ||| 0x180)) =
      .next ((s.setMxcsr (m ||| 0x180)).completed c.dst (s.destValue c src) (s.signals c src) c.len) := by
  have hdaz' : mxcsrBit (m ||| 0x180) .daz = mxcsrBit s.mxcsr .daz := (mxcsrBit_daz_or_masks m).trans hdaz
  have hchecks' := (passesChecks_setMxcsr s c (m ||| 0x180)).mpr hchecks
  have hread' : (s.setMxcsr (m ||| 0x180)).readSource c = .ok src := by rw [readSource_setMxcsr, hread]
  have hmask : allMasked ((s.setMxcsr (m ||| 0x180)).signals c src) (s.setMxcsr (m ||| 0x180)).mxcsr := by
    rw [setMxcsr_mxcsr]
    exact allMasked_or_masks _ m
  rw [convertPacked_of_passesChecks _ c src hchecks' hread', finish_masked _ c src hmask,
    destValue_setMxcsr s c src _ hdaz', signals_setMxcsr s c src _ hdaz']

/-- Settles O31: both runs complete with the same destination and signals, and those of the first attempt are recorded
already. -/
theorem retryAfterMaskingCompletes : Obligations.RetryAfterMaskingCompletes := by
  intro i s t h
  rw [exec_eq] at h
  have hchecks := passesChecks_of_simdFloatingPoint _ s t h
  obtain ⟨src, hread, -, -, rfl⟩ := convertPacked_numeric_fault _ s t _ hchecks (.inl rfl) h
  have hretry := convertPacked_or_masks s _ src (recordSignals (s.signals (operationOf i) src) s.mxcsr) hchecks hread
    (mxcsrBit_recordSignals_daz _ _)
  have hfirst := convertPacked_or_masks s _ src s.mxcsr hchecks hread rfl
  simp only [exec_eq]
  refine ⟨_, hretry, hfirst.trans ?_⟩
  simp only [State.completed, setMxcsr_mxcsr, recordSignals_or_recordSignals]
  rfl

/-! ## The privilege level (R221) -/

/-- An outcome with the privilege level of its state, if it has one, changed. -/
def atLevelResult (l : BitVec 2) : Result → Result
  | .next t => .next { t with cpl := l }
  | .fault (.raised e t) => .fault (.raised e { t with cpl := l })
  | .refused r => .refused r

theorem classCheck_cpl (s : State) (f : Form) (l : BitVec 2) :
    State.classCheck { s with cpl := l } f = s.classCheck f := by
  cases f <;> rfl

theorem finish_cpl (s : State) (c : Operation) (src : SrcValue) (l : BitVec 2) :
    State.finish { s with cpl := l } c src = atLevelResult l (s.finish c src) := by
  by_cases hm : allMasked (s.signals c src) s.mxcsr
  · rw [finish_masked s c src hm, finish_masked { s with cpl := l } c src hm]
    rfl
  · rw [finish_unmasked s c src hm, finish_unmasked { s with cpl := l } c src hm]
    rfl

/-- A register source is the same at every privilege level, and nothing else reads the level. -/
theorem convertPacked_cpl (c : Operation) (n : VReg) (s : State) (l : BitVec 2) (hsrc : c.src = .reg n) :
    convertPacked c { s with cpl := l } = atLevelResult l (convertPacked c s) := by
  have hsame : State.regSource { s with cpl := l } c.form n = s.regSource c.form n := rfl
  simp only [convertPacked, classCheck_cpl, readSource_reg _ c n hsrc, hsame, finish_cpl, raise]
  split
  · rfl
  · split
    · rfl
    · split <;> rfl

/-- Settles O32: a register form at another level has the same outcome at that level. -/
theorem privilegeLevelIrrelevant : Obligations.PrivilegeLevelIrrelevant := by
  intro i n s l hsrc
  have hexec : exec i { s with cpl := l } = atLevelResult l (exec i s) := by
    rw [exec_eq, exec_eq, convertPacked_cpl _ n s l hsrc]
  rw [hexec]
  exact ⟨fun t h => by rw [h]; rfl, fun e t h => by rw [h]; rfl, fun r h => by rw [h]; rfl⟩

end Sys2Proof.Machine
end

section
/-!
PROOFS for spec/70_reset_and_hazards.md R251: launching meets the premises, and bytes placed at the fetch address are the
ones the next step decodes.
-/
namespace Sys2Proof.Machine

/-! ## What launch leaves and sets (R251) -/

@[simp] theorem launch_mode (s : State) : s.launch.mode = .mode64 := rfl
@[simp] theorem launch_breakpoints (s : State) : s.launch.breakpoints = [] := rfl

/-- R251 P3: CR0.EM = 0. -/
@[simp] theorem launch_cr0EM (s : State) : s.launch.cr0EM = false := by
  simp [State.launch, State.cr0EM]

/-- R251 P6: CR0.TS = 0. -/
@[simp] theorem launch_cr0TS (s : State) : s.launch.cr0TS = false := by
  simp [State.launch, State.cr0TS]

/-- R251 P3: CR4.OSFXSR = 1. -/
@[simp] theorem launch_osfxsr (s : State) : s.launch.osfxsr = true := by
  simp [State.launch, State.osfxsr]

/-- R251 P7: CR4.OSXMMEXCPT = 1. -/
@[simp] theorem launch_osxmmexcpt (s : State) : s.launch.osxmmexcpt = true := by
  simp [State.launch, State.osxmmexcpt]

/-- R251 P4: CR4.OSXSAVE = 1. -/
@[simp] theorem launch_osxsave (s : State) : s.launch.osxsave = true := by
  simp [State.launch, State.osxsave]

/-- R251 P4: XCR0[2:1] = 11b. -/
@[simp] theorem launch_xcr0Avx (s : State) : s.launch.xcr0Avx = 3 := by
  have hfield : (0xE6 : Quad).extractLsb' 1 2 = BitVec.allOnes 2 := by decide
  simp only [State.xcr0Avx, State.launch, BitVec.extractLsb'_or, hfield, BitVec.or_allOnes]
  rfl

/-- R251 P5: XCR0[7:5] = 111b. -/
@[simp] theorem launch_xcr0Avx512 (s : State) : s.launch.xcr0Avx512 = 7 := by
  have hfield : (0xE6 : Quad).extractLsb' 5 3 = BitVec.allOnes 3 := by decide
  simp only [State.xcr0Avx512, State.launch, BitVec.extractLsb'_or, hfield, BitVec.or_allOnes]
  rfl

/-- R251 P10: RFLAGS.TF = 0. -/
@[simp] theorem launch_flagTF (s : State) : s.launch.flagTF = false := by
  simp [State.launch, State.flagTF]

/-- R251 P1 to P6: launching leaves a form nothing to wait for but its features. -/
theorem launch_premises (s : State) (f : Form) (hfeat : ∀ x ∈ f.features, hasFeature s.proc.features x = true) :
    s.launch.premises f :=
  ⟨launch_mode s, hfeat, launch_cr0TS s, fun _ => ⟨launch_cr0EM s, launch_osfxsr s⟩,
    fun _ => ⟨launch_osxsave s, launch_xcr0Avx s⟩, fun _ => launch_xcr0Avx512 s⟩

/-- Settles O43: each premise is a bit that launch sets or clears. -/
theorem launchMeetsPremises : Obligations.LaunchMeetsPremises :=
  fun s f hfeat => ⟨launch_premises s f hfeat, launch_osxmmexcpt s, launch_flagTF s, launch_breakpoints s⟩

/-! ## The placed bytes are the ones fetched (log 1) -/

/-- Where the first `bs.length` bytes from `a` on are `bs`, the prefix of that length is `bs`. -/
theorem readPrefix_eq (m : List Host.Cell) (a : Quad) (bs : List Byte)
    (h : ∀ i (hi : i < bs.length), Memory.read m (a + BitVec.ofNat 64 i).toNat = some bs[i]) :
    Memory.readPrefix m a bs.length = bs := by
  induction bs generalizing a with
  | nil => rfl
  | cons b bs ih =>
    have hhead : Memory.read m a.toNat = some b := by
      rw [← BitVec.add_zero a]
      exact h 0 (Nat.succ_pos _)
    have htail : Memory.readPrefix m (a + 1) bs.length = bs := ih (a + 1) fun i hi => by
      rw [← add_ofNat_succ]
      exact h (i + 1) (by simpa using hi)
    simp only [List.length_cons, Memory.readPrefix, hhead, htail]

/-- R13: stored bytes are the prefix read from where they were stored. -/
theorem readPrefix_writeBytes (m : List Host.Cell) (a : Quad) (bs : List Byte) (hlen : bs.length ≤ 2 ^ 64) :
    Memory.readPrefix (Memory.writeBytes m a bs) a bs.length = bs :=
  readPrefix_eq _ a bs (read_writeBytes_same bs m a hlen)

@[simp] theorem length_bytesOfNat (w n : Nat) : (bytesOfNat w n).length = n := by
  induction n generalizing w with
  | zero => rfl
  | succ n ih => simp [bytesOfNat, ih]

theorem length_wordBytes (nbits w : Nat) : (wordBytes nbits w).length = Config.maxInstrBytes :=
  length_bytesOfNat _ _

@[simp] theorem withFetchWord_mode (s : State) (nbits w : Nat) : (s.withFetchWord nbits w).mode = .mode64 := rfl
@[simp] theorem withFetchWord_rip (s : State) (nbits w : Nat) : (s.withFetchWord nbits w).rip = s.rip := rfl
@[simp] theorem withFetchWord_proc (s : State) (nbits w : Nat) : (s.withFetchWord nbits w).proc = s.proc := rfl
@[simp] theorem withFetchWord_breakpoints (s : State) (nbits w : Nat) : (s.withFetchWord nbits w).breakpoints = [] := rfl
@[simp] theorem withFetchWord_flagTF (s : State) (nbits w : Nat) : (s.withFetchWord nbits w).flagTF = false :=
  launch_flagTF s

/-- R35: launched in 64-bit mode, the processor fetches at RIP, and so the bytes are placed there. -/
@[simp] theorem withFetchWord_mem (s : State) (nbits w : Nat) :
    (s.withFetchWord nbits w).mem = Memory.writeBytes s.mem s.rip (wordBytes nbits w) := rfl

@[simp] theorem fetchAddress_withFetchWord (s : State) (nbits w : Nat) :
    (s.withFetchWord nbits w).fetchAddress = s.rip := rfl

/-- The placed bytes are fetched back, whole. -/
theorem fetchBytes_withFetchWord (s : State) (nbits w : Nat) :
    (s.withFetchWord nbits w).fetchBytes = wordBytes nbits w := by
  rw [State.fetchBytes, withFetchWord_mem, fetchAddress_withFetchWord, ← length_wordBytes nbits w]
  exact readPrefix_writeBytes s.mem s.rip _ (by rw [length_wordBytes]; decide)

/-- What it means that the decoder reads an instruction from a word. -/
theorem decodeTableWord_eq_some_iff (nbits w : Nat) (i : Instr) :
    decodeTableWord nbits w = some i ↔ ∃ rest, decode .refuse (wordBytes nbits w) = .instr i rest := by
  unfold decodeTableWord
  cases decode .refuse (wordBytes nbits w) <;> simp

/-- R36, R115: with room for the longest fetch in the lower half, any instruction lies in it. -/
theorem inOneHalf_of_room (wd : LinearWidth) (pc : Quad) (i : Instr)
    (hroom : pc.toNat + Config.maxInstrBytes < halfSize wd) : inOneHalf wd pc i.length = true := by
  obtain ⟨hmax, -⟩ := length_bounds i
  exact (inOneHalf_iff wd pc _).mpr (.inl (by simp only [Config.maxInstrBytes] at hroom; omega))

/-- Settles O44: the launch conditions hold, the placed bytes are fetched back and decode to the instruction, and it
lies in the lower half; `stepRunsDecodedInstruction` then runs it. -/
theorem placedWordRunsNext : Obligations.PlacedWordRunsNext := by
  intro s nbits w i hpol hroom hword
  obtain ⟨rest, hdec⟩ := (decodeTableWord_eq_some_iff nbits w i).mp hword
  have hfetch : decode (s.withFetchWord nbits w).proc.saeLL (s.withFetchWord nbits w).fetchBytes = .instr i rest := by
    rw [withFetchWord_proc, hpol, fetchBytes_withFetchWord, hdec]
  have hhalf : inOneHalf s.proc.linear s.rip i.length = true := inOneHalf_of_room s.proc.linear s.rip i hroom
  exact stepRunsDecodedInstruction _ i rest (withFetchWord_mode s nbits w) (withFetchWord_flagTF s nbits w) (by simp)
    hfetch (by simpa using hhalf)

end Sys2Proof.Machine
end
